-- ==== Sys2Proof/Word.lean ====
section
/-! DEFINITION. The words of the block: the widths rule R7 and rule R10 give. Every integer is unsigned (rule R8). -/

namespace Sys2Proof

/-- A binary32 word: sign in bit 31, biased exponent in bits 30:23, fraction in bits 22:0 (rule R69). -/
abbrev Binary32 := BitVec 32

/-- A time: a count of ticks since `EPOCH`, `TIME_W` = 64 bits (rules R7, R14). -/
abbrev Time := BitVec 64

/-- A sensor's serial number, `SERIAL_W` = 20 bits; the address of a registry entry (rules R7, R40). -/
abbrev Serial := BitVec 20

/-- A byte: the status byte, and the chip, mid-bit and bit arguments (rules R62, R70). -/
abbrev Byte := BitVec 8

/-- A 64-bit payload (rule R60). -/
abbrev Payload := BitVec 64

/-- A running counter, `COUNTER_W` = 32 bits, wrapping (rule R19). -/
abbrev Counter := BitVec 32

/-- A 17-bit CRC polynomial (rule R66). -/
abbrev Poly := BitVec 17

/-- The reading of the time source that a host operation carries: `now`, and `now_valid`,
false when the source could not be read (rule R14). -/
structure Clock where
  now : Time
  valid : Bool
  deriving DecidableEq, Repr

end Sys2Proof
end

