-- ==== Sys2Proof/Syntax.lean ====
section
/-! DEFINITION. The operations of the block: one constructor for each row of spec/opcode_table.json. -/

namespace Sys2Proof

/-- One operation of rule R70, or one decision of rules R65 and R66, with the arguments its rule gives it.
`now` and `nowValid` are the time inputs of rule R14: `SAMPLE` and `RXFAIL` carry both; a stage operation driven on
its own carries both as well (rule R85), as one `Clock` where it takes the time as valid, and neither where no rule it runs reads the time (log 5). -/
inductive Instr where
  /-- `IDLE`: host operation code 0, no step (rule R72). -/
  | idle
  /-- `SAMPLE(m, now, now_valid)` (rule R223). -/
  | sample (m : Binary32) (now : Time) (nowValid : Bool)
  /-- `RXFAIL(now, now_valid)` (rule R203). -/
  | rxfail (now : Time) (nowValid : Bool)
  /-- `RESET` (rule R270). -/
  | reset
  /-- `ENV.FILTER(m)` (rule R90). -/
  | envFilter (m : Binary32)
  /-- `ENV.DECIM` (rule R91). -/
  | envDecim (now : Time) (nowValid : Bool)
  /-- `PEAK.FORWARD(v)` (rule R103). -/
  | peakForward (v : Binary32) (now : Time) (nowValid : Bool)
  /-- `SYNC.CHIP(c)` (rule R113). -/
  | syncChip (c : Byte) (now : Time) (nowValid : Bool)
  /-- `MAN.STEP(b)` (rule R120). -/
  | manStep (b : Byte) (now : Time) (nowValid : Bool)
  /-- `MAN.LowA.0`: the decision of selector 000 (rules R65, R122). -/
  | manLowA0
  /-- `MAN.LowA.1`: selector 001 (rules R65, R122). -/
  | manLowA1
  /-- `MAN.LowB.0`: selector 010 (rules R65, R123). -/
  | manLowB0 (now : Time) (nowValid : Bool)
  /-- `MAN.LowB.1`: selector 011 (rules R65, R123). -/
  | manLowB1 (now : Time) (nowValid : Bool)
  /-- `MAN.HighA.0`: selector 100 (rules R65, R124). -/
  | manHighA0
  /-- `MAN.HighA.1`: selector 101 (rules R65, R124). -/
  | manHighA1
  /-- `MAN.HighB.0`: selector 110 (rules R65, R125). -/
  | manHighB0 (now : Time) (nowValid : Bool)
  /-- `MAN.HighB.1`: selector 111 (rules R65, R125). -/
  | manHighB1 (now : Time) (nowValid : Bool)
  /-- `FRM.SHIFT(d)` (rule R140). -/
  | frmShift (d : Byte) (now : Time) (nowValid : Bool)
  /-- `FRM.DETECT` (rule R142). -/
  | frmDetect (now : Time) (nowValid : Bool)
  /-- `CRC.CHECK(p)` (rule R155). -/
  | crcCheck (p : Payload) (now : Time) (nowValid : Bool)
  /-- `CRC.POLY.2GIG`: the selection of the 2GIG polynomial by `brand` (rules R66, R151). -/
  | crcPoly2gig (brand : BitVec 4)
  /-- `CRC.POLY.DEFAULT`: the selection of the default polynomial by `brand` (rules R66, R151). -/
  | crcPolyDefault (brand : BitVec 4)
  /-- `RXH.MARK(g)` (rule R201). -/
  | rxhMark (g : Bool) (clock : Clock)
  /-- `DEV.UPDATE(serial, status)` (rule R165). -/
  | devUpdate (serial : Serial) (status : Byte) (clock : Clock)
  /-- `DEV.NOTIFY(serial, status)` (rule R174). -/
  | devNotify (serial : Serial) (status : Byte) (clock : Clock)
  /-- `SWEEP` (rule R190). -/
  | sweep (clock : Clock)
  deriving DecidableEq, Repr

end Sys2Proof
end

