-- ==== Sys2Proof/WellFormed.lean ====
section
/-! DEFINITION. Which operations have a word: the operands that the selectors of spec/opcode_table.json admit. The
meanings of Sys2Proof/Machine are total on every operand; this check says only what the encoding can carry. -/

namespace Sys2Proof

/-- The 16 sync bits of the table's pattern for `CRC.CHECK` (rule R67). -/
def tableSync : BitVec 16 := 0xFFFE#16

/-- The brands that `CRC.POLY.2GIG` matches: match `0x2` under mask `0x7` of the 4-bit brand, that is 2 and 10
(rule R66). -/
def matches2gig (brand : BitVec 4) : Bool := brand &&& 0x7#4 == 0x2#4

/-- The operands that a word can carry. Every payload has the sync pattern in its top 16 bits (rule R60); the 2GIG
row matches brands 2 and 10, and the default row "every brand that CRC.POLY.2GIG does not match" (rule R66). Every
byte is an ordinary chip, mid-bit or bit argument (rule R68). -/
def Instr.wellFormed : Instr → Bool
  | .crcCheck p _ _ => p.extractLsb' 48 16 == tableSync
  | .crcPoly2gig brand => matches2gig brand
  | .crcPolyDefault brand => !matches2gig brand
  | .idle => true
  | .sample _ _ _ => true
  | .rxfail _ _ => true
  | .reset => true
  | .envFilter _ => true
  | .envDecim _ _ => true
  | .peakForward _ _ _ => true
  | .syncChip _ _ _ => true
  | .manStep _ _ _ => true
  | .manLowA0 => true
  | .manLowA1 => true
  | .manLowB0 _ _ => true
  | .manLowB1 _ _ => true
  | .manHighA0 => true
  | .manHighA1 => true
  | .manHighB0 _ _ => true
  | .manHighB1 _ _ => true
  | .frmShift _ _ _ => true
  | .frmDetect _ _ => true
  | .rxhMark _ _ => true
  | .devUpdate _ _ _ => true
  | .devNotify _ _ _ => true
  | .sweep _ => true

end Sys2Proof
end

