-- ==== Sys2Proof/Decode.lean ====
section
/-! DEFINITION. The operation word, its decoder and its encoder.

The block decodes no instruction words (rules R43, R229): the host presents one operation at a time, and stage
operations are driven on their own in a text notation (rule R84). The operation word is the model's own binary form
of one presented operation (log 2). Its low 64 bits are the selector of spec/opcode_table.json, bit for bit as the
table numbers them; the bits above carry what the table gives no bits: which selector space is meant (`form`),
the operands, and the time inputs.

    175..168  val    now_valid (0 or 1)
    167..160  form   the selector space, below
    159..128  arg    the operand of the operation
    127..64   now    the time input
     63..0    sel    the selector

Form 0 is read straight off the table, whose rows have no form: host operation codes 0 to 3 (rule R72), the
Manchester selectors 4 to 7 (rule R65), 16 for `PEAK.FORWARD`, and a payload whose top 16 bits are the sync pattern
for `CRC.CHECK` (rule R67). The other rows of the table have the word of one of these and take a form of their own,
with the row's match value as selector. -/

namespace Sys2Proof

/-- One presented operation (log 2). -/
abbrev OpWord := BitVec 176

/-- The fields of an operation word. -/
structure OpFields where
  sel : BitVec 64
  now : Time
  arg : BitVec 32
  form : Byte
  val : Byte
  deriving DecidableEq, Repr

/-- Why a word is no operation. -/
inductive DecodeError where
  /-- The form is none of 0 to 12. -/
  | unknownForm
  /-- The selector is that of no row of the form. -/
  | unknownSelector
  /-- A field the operation does not use is not zero, or `now_valid` is neither 0 nor 1. -/
  | reservedBits
  deriving DecidableEq, Repr

/-- The fields of a word. -/
def unpackWord (w : OpWord) : OpFields where
  sel := w.extractLsb' 0 64
  now := w.extractLsb' 64 64
  arg := w.extractLsb' 128 32
  form := w.extractLsb' 160 8
  val := w.extractLsb' 168 8

/-- The operation carries `now` and `now_valid`. -/
def OpFields.clocked (f : OpFields) (i : Time → Bool → Instr) : Except DecodeError Instr :=
  if f.val = 0#8 then .ok (i f.now false)
  else if f.val = 1#8 then .ok (i f.now true)
  else .error .reservedBits

/-- The operation carries both as one `Clock`. -/
def OpFields.timed (f : OpFields) (i : Clock → Instr) : Except DecodeError Instr :=
  f.clocked fun now nowValid => i ⟨now, nowValid⟩

/-- The operation carries no time. -/
def OpFields.timeless (f : OpFields) (i : Instr) : Except DecodeError Instr :=
  if f.now = 0#64 ∧ f.val = 0#8 then .ok i else .error .reservedBits

/-- The operation has the row's selector. -/
def OpFields.selected (f : OpFields) (k : BitVec 64) (r : Except DecodeError Instr) : Except DecodeError Instr :=
  if f.sel = k then r else .error .unknownSelector

/-- The operation has no operand. -/
def OpFields.bare (f : OpFields) (r : Except DecodeError Instr) : Except DecodeError Instr :=
  if f.arg = 0#32 then r else .error .reservedBits

/-- The operation has an operand of `n` bits in the low bits of `arg`. -/
def OpFields.operand (f : OpFields) (n : Nat) (r : BitVec n → Except DecodeError Instr) : Except DecodeError Instr :=
  if f.arg = (f.arg.setWidth n).setWidth 32 then r (f.arg.setWidth n) else .error .reservedBits

/-- Form 0: the words of the table read without a form (rules R72, R65, R67). -/
def decodeTableForm (f : OpFields) : Except DecodeError Instr :=
  if f.sel = 0#64 then f.bare (f.timeless .idle)
  else if f.sel = 1#64 then f.clocked (.sample f.arg)
  else if f.sel = 2#64 then f.bare (f.clocked .rxfail)
  else if f.sel = 3#64 then f.bare (f.timeless .reset)
  else if f.sel = 4#64 then f.bare (f.timeless .manHighA0)
  else if f.sel = 5#64 then f.bare (f.timeless .manHighA1)
  else if f.sel = 6#64 then f.bare (f.clocked .manHighB0)
  else if f.sel = 7#64 then f.bare (f.clocked .manHighB1)
  else if f.sel = 16#64 then f.clocked (.peakForward f.arg)
  else if f.sel.extractLsb' 48 16 = tableSync then f.bare (f.clocked (.crcCheck f.sel))
  else .error .unknownSelector

/-- Form 5: the Manchester selectors whose words are host operation codes in form 0 (rule R65). -/
def decodeManForm (f : OpFields) : Except DecodeError Instr :=
  if f.sel = 0#64 then f.bare (f.timeless .manLowA0)
  else if f.sel = 1#64 then f.bare (f.timeless .manLowA1)
  else if f.sel = 2#64 then f.bare (f.clocked .manLowB0)
  else if f.sel = 3#64 then f.bare (f.clocked .manLowB1)
  else .error .unknownSelector

/-- Form 8: the selector is the brand; `CRC.POLY.2GIG` is tested first (rule R66). -/
def decodeBrandForm (f : OpFields) : Except DecodeError Instr :=
  let brand : BitVec 4 := f.sel.setWidth 4
  if f.sel = brand.setWidth 64 then
    if matches2gig brand then f.bare (f.timeless (.crcPoly2gig brand))
    else f.bare (f.timeless (.crcPolyDefault brand))
  else .error .unknownSelector

/-- The operation that the fields of a word stand for. -/
def decodeFields (f : OpFields) : Except DecodeError Instr :=
  if f.form = 0#8 then decodeTableForm f
  else if f.form = 1#8 then f.selected 0#64 (f.timeless (.envFilter f.arg))
  else if f.form = 2#8 then f.selected 0#64 (f.bare (f.clocked .envDecim))
  else if f.form = 3#8 then f.selected 0#64 (f.operand 8 fun c => f.clocked (.syncChip c))
  else if f.form = 4#8 then f.selected 4#64 (f.operand 8 fun b => f.clocked (.manStep b))
  else if f.form = 5#8 then decodeManForm f
  else if f.form = 6#8 then f.selected 1#64 (f.operand 8 fun d => f.clocked (.frmShift d))
  else if f.form = 7#8 then f.selected 0#64 (f.bare (f.clocked .frmDetect))
  else if f.form = 8#8 then decodeBrandForm f
  else if f.form = 9#8 then f.selected 0#64 (f.operand 1 fun g => f.timed (.rxhMark (g == 1#1)))
  else if f.form = 10#8 then
    f.selected 0#64 (f.operand 28 fun a => f.timed (.devUpdate (a.extractLsb' 0 20) (a.extractLsb' 20 8)))
  else if f.form = 11#8 then
    f.selected 0#64 (f.operand 28 fun a => f.timed (.devNotify (a.extractLsb' 0 20) (a.extractLsb' 20 8)))
  else if f.form = 12#8 then f.selected 1#64 (f.bare (f.timed .sweep))
  else .error .unknownForm

/-- The operation that a word stands for; total, and a word that stands for none is rejected by name. -/
def decode (w : OpWord) : Except DecodeError Instr := decodeFields (unpackWord w)

/-- The word of the given fields. -/
def packWord (f : OpFields) : OpWord := f.val ++ f.form ++ f.arg ++ f.now ++ f.sel

/-- `now_valid` as a field. -/
def validField (nowValid : Bool) : Byte := if nowValid then 1#8 else 0#8

/-- The fields of a word without operand and without time. -/
def OpFields.plain (form : Byte) (sel : BitVec 64) : OpFields := ⟨sel, 0#64, 0#32, form, 0#8⟩

/-- The fields that stand for an operation. -/
def encodeFields : Instr → OpFields
  | .idle => .plain 0#8 0#64
  | .sample m now nowValid => ⟨1#64, now, m, 0#8, validField nowValid⟩
  | .rxfail now nowValid => ⟨2#64, now, 0#32, 0#8, validField nowValid⟩
  | .reset => .plain 0#8 3#64
  | .envFilter m => ⟨0#64, 0#64, m, 1#8, 0#8⟩
  | .envDecim now nowValid => ⟨0#64, now, 0#32, 2#8, validField nowValid⟩
  | .peakForward v now nowValid => ⟨16#64, now, v, 0#8, validField nowValid⟩
  | .syncChip c now nowValid => ⟨0#64, now, c.setWidth 32, 3#8, validField nowValid⟩
  | .manStep b now nowValid => ⟨4#64, now, b.setWidth 32, 4#8, validField nowValid⟩
  | .manLowA0 => .plain 5#8 0#64
  | .manLowA1 => .plain 5#8 1#64
  | .manLowB0 now nowValid => ⟨2#64, now, 0#32, 5#8, validField nowValid⟩
  | .manLowB1 now nowValid => ⟨3#64, now, 0#32, 5#8, validField nowValid⟩
  | .manHighA0 => .plain 0#8 4#64
  | .manHighA1 => .plain 0#8 5#64
  | .manHighB0 now nowValid => ⟨6#64, now, 0#32, 0#8, validField nowValid⟩
  | .manHighB1 now nowValid => ⟨7#64, now, 0#32, 0#8, validField nowValid⟩
  | .frmShift d now nowValid => ⟨1#64, now, d.setWidth 32, 6#8, validField nowValid⟩
  | .frmDetect now nowValid => ⟨0#64, now, 0#32, 7#8, validField nowValid⟩
  | .crcCheck p now nowValid => ⟨p, now, 0#32, 0#8, validField nowValid⟩
  | .crcPoly2gig brand => .plain 8#8 (brand.setWidth 64)
  | .crcPolyDefault brand => .plain 8#8 (brand.setWidth 64)
  | .rxhMark g clock => ⟨0#64, clock.now, if g then 1#32 else 0#32, 9#8, validField clock.valid⟩
  | .devUpdate serial status clock =>
    ⟨0#64, clock.now, (status ++ serial).setWidth 32, 10#8, validField clock.valid⟩
  | .devNotify serial status clock =>
    ⟨0#64, clock.now, (status ++ serial).setWidth 32, 11#8, validField clock.valid⟩
  | .sweep clock => ⟨1#64, clock.now, 0#32, 12#8, validField clock.valid⟩

/-- The word of a well-formed operation. -/
def encode (i : Instr) : OpWord := packWord (encodeFields i)

/-- A row of spec/opcode_table.json as a word: its `nbits` bits, every bit above them 0. -/
def tableWord (nbits w : Nat) : OpWord := BitVec.ofNat 176 (w % 2 ^ nbits)

/-- The operation the decoder reads from a row's word. -/
def decodeTableWord (nbits w : Nat) : Option Instr :=
  match decode (tableWord nbits w) with
  | .ok i => some i
  | .error _ => none

/-- The table's `match` and `mask` of the row an operation stands for, over its selector. -/
def tableRow : Instr → BitVec 64 × BitVec 64
  | .idle => (0x0#64, 0x3#64)
  | .sample _ _ _ => (0x1#64, 0x3#64)
  | .rxfail _ _ => (0x2#64, 0x3#64)
  | .reset => (0x3#64, 0x3#64)
  | .envFilter _ => (0x0#64, 0x0#64)
  | .envDecim _ _ => (0x0#64, 0x0#64)
  | .peakForward _ _ _ => (0x10#64, 0x1F#64)
  | .syncChip _ _ _ => (0x0#64, 0x0#64)
  | .manStep _ _ _ => (0x4#64, 0x7#64)
  | .manLowA0 => (0x0#64, 0x7#64)
  | .manLowA1 => (0x1#64, 0x7#64)
  | .manLowB0 _ _ => (0x2#64, 0x7#64)
  | .manLowB1 _ _ => (0x3#64, 0x7#64)
  | .manHighA0 => (0x4#64, 0x7#64)
  | .manHighA1 => (0x5#64, 0x7#64)
  | .manHighB0 _ _ => (0x6#64, 0x7#64)
  | .manHighB1 _ _ => (0x7#64, 0x7#64)
  | .frmShift _ _ _ => (0x1#64, 0x1#64)
  | .frmDetect _ _ => (0x0#64, 0x0#64)
  | .crcCheck _ _ _ => (0xFFFE000000000000#64, 0xFFFF000000000000#64)
  | .crcPoly2gig _ => (0x2#64, 0x7#64)
  | .crcPolyDefault _ => (0x0#64, 0x0#64)
  | .rxhMark _ _ => (0x0#64, 0x0#64)
  | .devUpdate _ _ _ => (0x0#64, 0xFFFF#64)
  | .devNotify _ _ _ => (0x0#64, 0x0#64)
  | .sweep _ => (0x1#64, 0x1#64)

end Sys2Proof
end

