-- ==== Sys2Proof/Config.lean ====
section
/-! DEFINITION. What the hardware fixes (the parameters of rule R7, as decision D34 asks: one record, so that a
claim can name a value or quantify over it), and the free values: what the spec leaves without a value.
The values this hardware takes stand in Sys2Proof/Machine/Hardware.lean. -/

namespace Sys2Proof

/-- The four arithmetic operations of rule R8. -/
inductive FloatOp where
  | add | sub | mul | div
  deriving DecidableEq, Repr

/-- FREE VALUE (log 8). The sign bit and the 23 fraction bits of the NaN an operation answers, from the operation
and its operands: the spec says only that the result is a NaN ("any NaN", vector F18). No body: nothing can be
proved of it. -/
opaque Config.freeNaN : FloatOp → Binary32 → Binary32 → BitVec 24

/-- FREE VALUE (log 7). The 148 bits of rule R64 (all but `present`) that `DEV.NOTIFY`, driven on its own, reads
for a serial with no entry; the number is the count of such reads before. No body. -/
opaque Config.freeRecord : Serial → Nat → BitVec 148

/-- The arithmetic of the envelope stage, a parameter of the configuration (decisions D3 and D34, U11). -/
structure FloatModel where
  add : Binary32 → Binary32 → Binary32
  sub : Binary32 → Binary32 → Binary32
  mul : Binary32 → Binary32 → Binary32
  div : Binary32 → Binary32 → Binary32
  gt : Binary32 → Binary32 → Bool

/-- The parameters of rule R7, with the polarity of the two active-low flags (90_conflicts.md C2), the sweep order
(decision D22) and the arithmetic (decision D3). The widths `FRAME_W`, `SYNC_W`, `SERIAL_W` are the widths of the
types; `REGISTRY_CAPACITY` is the size of `Serial`. The two decided widths `TIME_W` and `COUNTER_W` are fields, up to
the 64 and 32 bits of `Time` and `Counter` that carry them (log 10). -/
structure Config where
  /-- `fadd`, `fsub`, `fmul`, `fdiv`, `fgt` of rule R8. -/
  float : FloatModel
  /-- `ALPHA`. -/
  alpha : Binary32
  /-- `DECIM_RATIO`. -/
  decimRatio : Nat
  /-- `CLAMP_MAX`, 1.0. -/
  clampMax : Binary32
  /-- `MIN_OOK_THRESHOLD` (decided). -/
  minOokThreshold : Binary32
  /-- `OOK_THRESHOLD_RATIO` (decided). -/
  ookThresholdRatio : Binary32
  /-- `PEAK_DECAY` (decided). -/
  peakDecay : Binary32
  /-- `CHIP_PERIOD`. -/
  chipPeriod : Nat
  /-- `CHIP_HALF`. -/
  chipHalf : Nat
  /-- `SYNC_PATTERN` (decided). -/
  syncPattern : BitVec 16
  /-- `BRAND_2GIG_SET`. -/
  brand2gig : List (BitVec 4)
  /-- `POLY_2GIG` (decided). -/
  poly2gig : Poly
  /-- `POLY_DEFAULT` (decided). -/
  polyDefault : Poly
  /-- `LOOP_MASK` (decided). -/
  loopMask : Byte
  /-- `TAMPER_BIT` (decided). -/
  tamperBit : Byte
  /-- `BATTERY_BIT` (decided). -/
  batteryBit : Byte
  /-- `FLAGS_ACTIVE_LOW` (U9): true as 90_conflicts.md C2 resolves it. -/
  flagsActiveLow : Bool
  /-- `BASELINE_SENTINEL`. -/
  baselineSentinel : Byte
  /-- `TICKS_PER_SECOND` (decided). -/
  ticksPerSecond : Nat
  /-- `NOTIFY_MIN_INTERVAL` in seconds. -/
  notifyMinSeconds : Nat
  /-- `SENSOR_TIMEOUT` in seconds. -/
  sensorTimeoutSeconds : Nat
  /-- `RX_MIN_INTERVAL` in seconds. -/
  rxMinSeconds : Nat
  /-- `TIME_W` in bits (decided): elapsed times are taken modulo `2 ^ TIME_W` (rule R8). -/
  timeWidth : Nat
  /-- `COUNTER_W` in bits (decided): the two counters wrap modulo `2 ^ COUNTER_W` (rule R19). -/
  counterWidth : Nat
  /-- `EPOCH` (decided). -/
  epoch : Time
  /-- `SWEEP_ORDER` (U10): from the present serials in ascending order to the order of the visits. -/
  sweepOrder : List Serial → List Serial
  /-- `TOPIC_BASE`. -/
  topicBase : String

/-- The number 1.0 as a binary32 word. -/
def binary32One : Binary32 := 0x3F800000#32

/-- `ONE_MINUS_ALPHA` = fsub(1.0, ALPHA), a constant (decision D4). -/
def Config.oneMinusAlpha (cfg : Config) : Binary32 := cfg.float.sub binary32One cfg.alpha

/-- `PEAK_FLOOR` = fdiv(MIN_OOK_THRESHOLD, OOK_THRESHOLD_RATIO) (rule R7). -/
def Config.peakFloor (cfg : Config) : Binary32 := cfg.float.div cfg.minOokThreshold cfg.ookThresholdRatio

/-- A number of seconds as a time interval (decision D18). -/
def Config.ticks (cfg : Config) (seconds : Nat) : Time := BitVec.ofNat 64 (seconds * cfg.ticksPerSecond)

/-- `NOTIFY_MIN_INTERVAL` in ticks. -/
def Config.notifyMinInterval (cfg : Config) : Time := cfg.ticks cfg.notifyMinSeconds

/-- `SENSOR_TIMEOUT` in ticks. -/
def Config.sensorTimeout (cfg : Config) : Time := cfg.ticks cfg.sensorTimeoutSeconds

/-- `RX_MIN_INTERVAL` in ticks. -/
def Config.rxMinInterval (cfg : Config) : Time := cfg.ticks cfg.rxMinSeconds

/-- What rule R7 lets a model assume of the decided rows, "and nothing more"; and of the sweep order, that it is
an order of visits to the same serials (rule R195). -/
structure Config.Allowed (cfg : Config) : Prop where
  ratio_pos : cfg.float.gt cfg.ookThresholdRatio 0#32 = true
  ratio_lt_one : cfg.float.gt binary32One cfg.ookThresholdRatio = true
  threshold_pos : cfg.float.gt cfg.minOokThreshold 0#32 = true
  decay_pos : cfg.float.gt cfg.peakDecay 0#32 = true
  sync_nonzero : cfg.syncPattern ≠ 0#16
  poly2gig_17bit : cfg.poly2gig.getLsbD 16 = true
  polyDefault_17bit : cfg.polyDefault.getLsbD 16 = true
  loop_not_tamper : cfg.loopMask &&& cfg.tamperBit = 0#8
  loop_not_battery : cfg.loopMask &&& cfg.batteryBit = 0#8
  loop_has_b0 : cfg.loopMask &&& 0xB0#8 = 0xB0#8
  sweep_visits_all : ∀ serials : List Serial, (cfg.sweepOrder serials).Perm serials

end Sys2Proof
end

