-- ==== Sys2Proof/Machine/Float.lean ====
section
/-! DEFINITION. binary32 arithmetic (rule R8, decision D3): fadd, fsub, fmul, fdiv rounded once to nearest, ties to
even, with subnormals and without flags, and the quiet comparison fgt. Operands are taken to exact integers times a
power of two, the result is computed exactly, and `fRound` narrows it once. -/

namespace Sys2Proof.Machine

/-- The sign, bit 31. -/
def fNeg (x : Binary32) : Bool := x.getLsbD 31

/-- The biased exponent, bits 30:23. -/
def fBiased (x : Binary32) : Nat := (x.extractLsb' 23 8).toNat

/-- The fraction, bits 22:0. -/
def fFraction (x : Binary32) : Nat := (x.extractLsb' 0 23).toNat

/-- A NaN: biased exponent 255 and a fraction that is not zero. -/
def fIsNaN (x : Binary32) : Bool := fBiased x == 255 && fFraction x != 0

/-- An infinity. -/
def fIsInf (x : Binary32) : Bool := fBiased x == 255 && fFraction x == 0

/-- A zero of either sign. -/
def fIsZero (x : Binary32) : Bool := fBiased x == 0 && fFraction x == 0

/-- The integer significand of a finite word: its magnitude is `fMant x * 2 ^ fExp x`. -/
def fMant (x : Binary32) : Nat := if fBiased x = 0 then fFraction x else fFraction x + 2 ^ 23

/-- The exponent of a finite word's last place, -149 for zeros and subnormals. -/
def fExp (x : Binary32) : Int := if fBiased x = 0 then -149 else (fBiased x : Int) - 150

/-- A word from its sign and its low 31 bits. -/
def fWord (neg : Bool) (magnitude : Nat) : Binary32 :=
  BitVec.ofNat 32 (magnitude + if neg then 2 ^ 31 else 0)

/-- The low 31 bits of an infinity. -/
def fInfMagnitude : Nat := 0x7F800000

/-- The same word with the other sign. -/
def fFlip (x : Binary32) : Binary32 := x ^^^ 0x80000000#32

/-- `m` divided by `2 ^ d` and rounded to the nearest integer, ties to even; exact where `d` is not positive. -/
def fShiftRound (m : Nat) (d : Int) : Nat :=
  if d ≤ 0 then m * 2 ^ (-d).toNat
  else
    let unit := 2 ^ d.toNat
    let q := m / unit
    let twice := 2 * (m % unit)
    if unit < twice ∨ (twice = unit ∧ q % 2 = 1) then q + 1 else q

/-- The exponent of the last place that the value `m * 2 ^ e` is rounded to: 24 significant bits, not below -149. -/
def fPlace (m : Nat) (e : Int) : Int := max (e + (Nat.log2 m : Int) - 23) (-149)

/-- The binary32 nearest to `m * 2 ^ e` with the given sign; overflow answers an infinity. A carry out of the
significand moves into the exponent field by the plain sum. -/
def fRound (neg : Bool) (m : Nat) (e : Int) : Binary32 :=
  if m = 0 then fWord neg 0
  else
    let t := fPlace m e
    let magnitude := (t + 149).toNat * 2 ^ 23 + fShiftRound m (t - e)
    fWord neg (min magnitude fInfMagnitude)

/-- The NaN an operation answers: biased exponent 255, a fraction that is not zero, all else free (log 8). -/
def fNaN (op : FloatOp) (a b : Binary32) : Binary32 :=
  let free := Config.freeNaN op a b
  let fraction := (free.extractLsb' 0 23).toNat
  fWord (free.getLsbD 23) (fInfMagnitude + if fraction = 0 then 2 ^ 22 else fraction)

/-- A finite word as an integer multiple of `2 ^ e`, for `e` not above its own exponent. -/
def fScaled (x : Binary32) (e : Int) : Int :=
  let magnitude : Int := ((fMant x * 2 ^ (fExp x - e).toNat : Nat) : Int)
  if fNeg x then -magnitude else magnitude

/-- The IEEE 754 sum, with the word to answer where the result is a NaN. An exact sum of zero is +0 unless both
operands are negative. -/
def fSum (nan a b : Binary32) : Binary32 :=
  if fIsNaN a || fIsNaN b then nan
  else if fIsInf a then
    if fIsInf b && (fNeg a != fNeg b) then nan else a
  else if fIsInf b then b
  else
    let e := min (fExp a) (fExp b)
    let sum := fScaled a e + fScaled b e
    if sum = 0 then fWord (fNeg a && fNeg b) 0 else fRound (decide (sum < 0)) sum.natAbs e

/-- `fadd` of rule R8. -/
def fAdd (a b : Binary32) : Binary32 := fSum (fNaN .add a b) a b

/-- `fsub` of rule R8. -/
def fSub (a b : Binary32) : Binary32 := fSum (fNaN .sub a b) a (fFlip b)

/-- `fmul` of rule R8. -/
def fMul (a b : Binary32) : Binary32 :=
  let neg := fNeg a != fNeg b
  if fIsNaN a || fIsNaN b then fNaN .mul a b
  else if fIsInf a || fIsInf b then
    if fIsZero a || fIsZero b then fNaN .mul a b else fWord neg fInfMagnitude
  else fRound neg (fMant a * fMant b) (fExp a + fExp b)

/-- `fdiv` of rule R8. The quotient keeps 64 bits below the dividend's last place and a bit that says whether
anything was left over, enough to round to 24 bits as the exact quotient rounds. -/
def fDiv (a b : Binary32) : Binary32 :=
  let neg := fNeg a != fNeg b
  if fIsNaN a || fIsNaN b then fNaN .div a b
  else if fIsInf a then
    if fIsInf b then fNaN .div a b else fWord neg fInfMagnitude
  else if fIsInf b then fWord neg 0
  else if fIsZero b then
    if fIsZero a then fNaN .div a b else fWord neg fInfMagnitude
  else
    let dividend := fMant a * 2 ^ 64
    let rest := if dividend % fMant b = 0 then 0 else 1
    fRound neg (2 * (dividend / fMant b) + rest) (fExp a - fExp b - 65)

/-- The order of the words that are not NaNs: sign and magnitude, both zeros equal. -/
def fKey (x : Binary32) : Int :=
  let magnitude : Int := ((x.extractLsb' 0 31).toNat : Int)
  if fNeg x then -magnitude else magnitude

/-- `fgt` of rule R8: false when either operand is a NaN. -/
def fGt (a b : Binary32) : Bool :=
  !fIsNaN a && !fIsNaN b && decide (fKey b < fKey a)

/-- The arithmetic of decision D3. -/
def ieeeBinary32 : FloatModel where
  add := fAdd
  sub := fSub
  mul := fMul
  div := fDiv
  gt := fGt

end Sys2Proof.Machine
end

