-- ==== Sys2Proof/Machine/Hardware.lean ====
section
/-! DEFINITION. The values of rule R7: the one configuration of this hardware. -/

namespace Sys2Proof.Machine

/-- The parameters of rule R7 with the values this hardware takes. -/
def hardware : Config where
  float := ieeeBinary32
  alpha := 0x3F333333#32
  decimRatio := 17
  clampMax := 0x3F800000#32
  minOokThreshold := 0x3E800000#32
  ookThresholdRatio := 0x3F400000#32
  peakDecay := 0x38D1B717#32
  chipPeriod := 8
  chipHalf := 4
  syncPattern := 0xFFFE#16
  brand2gig := [2#4, 10#4]
  poly2gig := 0x18050#17
  polyDefault := 0x18005#17
  loopMask := 0xB0#8
  tamperBit := 0x40#8
  batteryBit := 0x08#8
  flagsActiveLow := true
  baselineSentinel := 0xFF#8
  ticksPerSecond := 1
  notifyMinSeconds := 60
  sensorTimeoutSeconds := 27000
  rxMinSeconds := 60
  timeWidth := 64
  counterWidth := 32
  epoch := 0#64
  sweepOrder := fun serials => serials
  topicBase := "/security/sensors345/"

end Sys2Proof.Machine
end

