-- ==== Sys2Proof/Machine/Record.lean ====
section
/-! DEFINITION. The data the block holds and hands out: the Manchester phase, the registry and its records, the
publish and diagnostic events. -/

namespace Sys2Proof.Machine

/-- The four states of the Manchester decoder (rules R17, R121). -/
inductive Phase where
  | lowA | lowB | highA | highB
  deriving DecidableEq, Repr

/-- The 2-bit encoding of rule R17. -/
def Phase.code : Phase → BitVec 2
  | .lowA => 0#2
  | .lowB => 1#2
  | .highA => 2#2
  | .highB => 3#2

/-- The record of one device (rule R20). -/
structure DeviceState where
  minAlarmStateSeen : Byte
  alarm : Bool
  tamper : Bool
  batteryLow : Bool
  timeout : Bool
  lastRawState : Byte
  lastUpdateTime : Time
  lastAlarmTime : Time
  deriving DecidableEq, Repr

/-- The device registry (rules R21, R40): the present serials with their records, serials strictly rising. An
unlisted serial reads as absent, so no listed entry can equal what an unlisted one reads as. -/
abbrev Memory := List (Serial × DeviceState)

/-- The canonical form: serials strictly rising. -/
abbrev Memory.wf (m : Memory) : Prop := m.Pairwise fun a b => a.1 < b.1

/-- The kind of a publish event (rule R78). -/
inductive PubKind where
  | rxStatus | alarm | status
  deriving DecidableEq, Repr

/-- The payload of a publish event (rule R80). -/
inductive PubPayload where
  | ok | failed | alarm | tamper | lowBatt | tamperLowBatt | timeout
  deriving DecidableEq, Repr

/-- One device of the diagnostic listing (rule R83). -/
structure ListingRow where
  serial : Serial
  alarm : Bool
  tamper : Bool
  batteryLow : Bool
  timeout : Bool
  deriving DecidableEq, Repr

/-- What a step hands out (rules R78, R82, R83). -/
inductive Event where
  /-- `publish(kind, serial, payload)`; the serial is 0 for `RX_STATUS`. -/
  | publish (kind : PubKind) (serial : Serial) (payload : PubPayload)
  /-- `diag(CRC_FAIL, p, error_count, payload_count)`. -/
  | crcFail (p : Payload) (errorCount payloadCount : Counter)
  /-- `diag(DEVICE_LIST, updated_serial, snapshot)`. -/
  | deviceList (updated : Serial) (snapshot : List ListingRow)
  deriving DecidableEq, Repr

end Sys2Proof.Machine
end

