-- ==== Sys2Proof/Machine/State.lean ====
section
/-! DEFINITION. The state of one instance of the block (rule R10), its reset value (rule R29), and the reasons a
step can stop. -/

namespace Sys2Proof.Machine

/-- The state. The first fourteen fields are rule R10, "the following and nothing else". The last four are the
MODEL's own (log 1, 6, 7): a step of Host.Core takes no input and answers no output, so the operations the host has
yet to present and the output list of the last step stand here; no rule of the block reads the output or the selected
polynomial back. -/
structure State where
  /-- EnvelopeState: the output of the smoothing filter (rule R15). -/
  smoothed : Binary32
  /-- EnvelopeState: samples since the last forwarded one, 0 to 16 between steps (rule R15). -/
  decimCount : Nat
  /-- EnvelopeState: the running peak (rule R15). -/
  ookMax : Binary32
  /-- EdgeState: the last chip accepted (rule R16). -/
  lastChip : BitVec 1
  /-- EdgeState: chips since the last edge, an unbounded natural (rule R16). -/
  sinceEdge : Nat
  /-- ManchesterPhase (rule R17). -/
  phase : Phase
  /-- The Frame Register (rule R18). -/
  frame : BitVec 64
  /-- Payloads handed to the validator (rule R19). -/
  payloadCount : Counter
  /-- Payloads that failed the CRC (rule R19). -/
  errorCount : Counter
  /-- The Device Registry (rules R20, R21). -/
  registry : Memory
  /-- RxHealth: the last value marked (rule R22). -/
  rxGood : Bool
  /-- RxHealth: the time of the last health notification (rule R22). -/
  rxLastPublishTime : Time
  /-- The fault state: sticky until reset (rule R23). -/
  halted : Bool
  /-- The cause of the halt, 0 while not halted (rules R23, R241). -/
  faultCause : BitVec 2
  /-- The model's own: the operations the host has not yet presented, next one first. -/
  input : List OpWord
  /-- The model's own: the output list of the last step (rule R224). -/
  output : List Event
  /-- The model's own: the polynomial the last step selected, if it selected one (rule R151). -/
  selectedPoly : Option Poly
  /-- The model's own: how many free records have been read (log 7). -/
  freeReads : Nat
  deriving DecidableEq, Repr

/-- The reasons a step stops without a next state. There is none: the block's one fault, `ClockFault`, leaves a
halted block, which is a next state (rule R244), and "the block recognises no other abnormal event" (rule R240). Safe:
nothing is stopped. -/
inductive Fault where
  deriving DecidableEq, Repr

/-- The reasons a step is refused. -/
inductive Refusal where
  /-- Raised by no arm: every operation of the table has its meaning. Safe. -/
  | notModelled (mnemonic : String)
  /-- Raised by `step` when the next operation word stands for no operation (log 2). Safe: such a word is nothing
  that a host of the block can present (rules R68, R72). -/
  | notAnOperation (reason : DecodeError)
  deriving DecidableEq, Repr

/-- The block right after `RESET` (rules R29, R270), with nothing presented. -/
def State.reset : State where
  smoothed := 0#32
  decimCount := 0
  ookMax := hardware.peakFloor
  lastChip := 0#1
  sinceEdge := 0
  phase := .lowA
  frame := 0#64
  payloadCount := 0#32
  errorCount := 0#32
  registry := []
  rxGood := false
  rxLastPublishTime := hardware.epoch
  halted := false
  faultCause := 0#2
  input := []
  output := []
  selectedPoly := none
  freeReads := 0

end Sys2Proof.Machine
end

