-- ==== Sys2Proof/Machine/Ops.lean ====
section
/-! DEFINITION. The named operations over the registry and the output list, the call chain of a step, the one
exception (`ClockFault`) and the one way out of it (`RESET`). -/

namespace Sys2Proof.Machine

/-- `MemRead(s)`: the record stored for a serial, or `none` for absent (rule R41). -/
def memRead : Memory → Serial → Option DeviceState
  | [], _ => none
  | (t, e) :: rest, s => if s = t then some e else memRead rest s

/-- `MemWrite(s, e)`: stores the record, creating the entry if absent (rule R41). -/
def memWrite : Memory → Serial → DeviceState → Memory
  | [], s, e => [(s, e)]
  | (t, f) :: rest, s, e =>
    if s < t then (s, e) :: (t, f) :: rest
    else if s = t then (s, e) :: rest
    else (t, f) :: memWrite rest s e

/-- The write-back of a record that was read where the entry is present, and nothing where it is absent: "Creation
happens only at the `MemWrite`" of `DEV.UPDATE` (rule R47). -/
def memRefresh (m : Memory) (s : Serial) (e : DeviceState) : Memory :=
  match memRead m s with
  | some _ => memWrite m s e
  | none => m

/-- The present serials, ascending. -/
def presentSerials (m : Memory) : List Serial := m.map Prod.fst

/-- The snapshot of rule R83: every present device with its four flags, ascending. -/
def listing (m : Memory) : List ListingRow :=
  m.map fun entry =>
    ⟨entry.1, entry.2.alarm, entry.2.tamper, entry.2.batteryLow, entry.2.timeout⟩

/-- The packing of a record in rule R64, bits 147 down to 0 (`present`, bit 148, is the entry being in the map). -/
def DeviceState.pack (e : DeviceState) : BitVec 148 :=
  e.minAlarmStateSeen ++ BitVec.ofBool e.alarm ++ BitVec.ofBool e.tamper ++ BitVec.ofBool e.batteryLow ++
    BitVec.ofBool e.timeout ++ e.lastRawState ++ e.lastUpdateTime ++ e.lastAlarmTime

/-- The record that 148 packed bits hold (rule R64). -/
def DeviceState.unpack (bits : BitVec 148) : DeviceState where
  minAlarmStateSeen := bits.extractLsb' 140 8
  alarm := bits.getLsbD 139
  tamper := bits.getLsbD 138
  batteryLow := bits.getLsbD 137
  timeout := bits.getLsbD 136
  lastRawState := bits.extractLsb' 128 8
  lastUpdateTime := bits.extractLsb' 64 64
  lastAlarmTime := bits.extractLsb' 0 64

/-- A registry entry as a word of the hardware table of rule R64: bit 148 is `present`. The bits of an entry that is
not present are given as 0 here; no rule reads them. -/
def tableEntry (m : Memory) (s : Serial) : BitVec 149 :=
  match memRead m s with
  | some e => 1#1 ++ e.pack
  | none => 0#149

/-- Appends one event to the step's output list: `publish` and `diag` of rule R8. -/
def State.emit (s : State) (e : Event) : State := { s with output := s.output ++ [e] }

/-- The state at the start of a step: the output list is empty and nothing has been selected (rule R224). -/
def State.startStep (s : State) : State := { s with output := [], selectedPoly := none }

/-- How a call made inside a step ends: it returns to its caller, or a fault abandons the whole chain of calls
(rule R244). -/
inductive Call where
  | returned (s : State)
  | abandoned (s : State)
  deriving DecidableEq, Repr

/-- The state a call leaves, however it ends. -/
def Call.state : Call → State
  | .returned s => s
  | .abandoned s => s

/-- The rest of the caller, which runs only if the call returns: after a fault "no further line of any operation on
the call chain is executed" (rule R244). -/
def Call.andThen (c : Call) (rest : State → Call) : Call :=
  match c with
  | .returned s => rest s
  | .abandoned s => .abandoned s

/-- `CLOCK_AT_PAYLOAD`, fault cause 1 (rule R241). -/
def clockAtPayload : BitVec 2 := 1#2

/-- `CLOCK_AT_RXFAIL`, fault cause 2 (rule R241). -/
def clockAtRxfail : BitVec 2 := 2#2

/-- `raise ClockFault` with a cause: halts the block, records the cause and abandons the step, "and nothing else"
(rule R244). -/
def raiseClockFault (cause : BitVec 2) (s : State) : Call :=
  .abandoned { s with halted := true, faultCause := cause }

/-- The assignments of `RESET` (rule R270), the only way out of the halted state (rule R253). The operations not yet
presented and the count of free reads are no state of the block and stay. -/
def resetBlock (cfg : Config) (s : State) : State :=
  { s with
    smoothed := 0#32, decimCount := 0, ookMax := cfg.peakFloor
    lastChip := 0#1, sinceEdge := 0
    phase := .lowA
    frame := 0#64
    payloadCount := 0#32, errorCount := 0#32
    registry := []
    rxGood := false, rxLastPublishTime := cfg.epoch
    halted := false, faultCause := 0#2 }

/-- One operation presented to the block, from the start of its step: on a halted block it does nothing
(rules R23, R222). -/
def runCall (s : State) (op : State → Call) : State :=
  if s.halted then s.startStep else (op s.startStep).state

/-- `runCall` for an operation that cannot raise. -/
def runPlain (s : State) (op : State → State) : State :=
  if s.halted then s.startStep else op s.startStep

end Sys2Proof.Machine
end

