-- ==== Sys2Proof/Machine/Operands.lean ====
section
/-! DEFINITION. The fields of a payload (rule R61), elapsed time (rule R8) and the codes and strings of the publish
events (rules R78 to R80). -/

namespace Sys2Proof.Machine

/-- `sync`, bits 63:48 of a payload or of the frame register (rules R60, R67). -/
def syncOf (p : BitVec 64) : BitVec 16 := p.extractLsb' 48 16

/-- `brand(p)`, bits 47:44 (rule R61). -/
def brandOf (p : Payload) : BitVec 4 := p.extractLsb' 44 4

/-- `serial(p)`, bits 43:24 (rule R61). -/
def serialOf (p : Payload) : Serial := p.extractLsb' 24 20

/-- `status(p)`, bits 23:16 (rule R61). -/
def statusOf (p : Payload) : Byte := p.extractLsb' 16 8

/-- `crc(p)`, bits 15:0 (rule R61). -/
def crcOf (p : Payload) : BitVec 16 := p.extractLsb' 0 16

/-- `nonsync(p)`, bits 47:0 (rule R61). -/
def nonsync (p : Payload) : BitVec 48 := p.extractLsb' 0 48

/-- `elapsed(t) = (now − t) mod 2^TIME_W` (rule R8). -/
def elapsed (cfg : Config) (now t : Time) : Time := ((now - t).setWidth cfg.timeWidth).setWidth 64

/-- One more of a running counter, modulo `2^COUNTER_W` (rules R19, R155). -/
def countUp (cfg : Config) (n : Counter) : Counter := ((n + 1).setWidth cfg.counterWidth).setWidth 32

/-- The kind codes of rule R78. -/
def PubKind.code : PubKind → BitVec 2
  | .rxStatus => 0#2
  | .alarm => 1#2
  | .status => 2#2

/-- The payload codes of rule R80; code 7 is never produced. -/
def PubPayload.code : PubPayload → BitVec 3
  | .ok => 0#3
  | .failed => 1#3
  | .alarm => 2#3
  | .tamper => 3#3
  | .lowBatt => 4#3
  | .tamperLowBatt => 5#3
  | .timeout => 6#3

/-- The payload strings of rule R80. -/
def PubPayload.text : PubPayload → String
  | .ok => "OK"
  | .failed => "FAILED"
  | .alarm => "ALARM"
  | .tamper => "TAMPER"
  | .lowBatt => "LOWBATT"
  | .tamperLowBatt => "TAMPER LOWBATT"
  | .timeout => "TIMEOUT"

/-- The payloads that are legal with a kind (rule R80). -/
def PubPayload.legalWith : PubPayload → PubKind → Bool
  | .ok, _ => true
  | .failed, .rxStatus => true
  | .alarm, .alarm => true
  | .tamper, .status => true
  | .lowBatt, .status => true
  | .tamperLowBatt, .status => true
  | .timeout, .status => true
  | _, _ => false

/-- The digits of a number below `10 ^ fuel` in decimal, most significant first, no leading zeros. -/
def decimalDigits : Nat → Nat → List Char
  | 0, _ => []
  | fuel + 1, n =>
    let digit := Char.ofNat (48 + n % 10)
    if n < 10 then [digit] else decimalDigits fuel (n / 10) ++ [digit]

/-- `dec(serial)` of rule R79: 1 to 7 characters. -/
def decimalSerial (s : Serial) : String := String.ofList (decimalDigits 7 s.toNat)

/-- The topic string of a publish event (rule R79). -/
def topic (cfg : Config) (kind : PubKind) (serial : Serial) : String :=
  match kind with
  | .rxStatus => cfg.topicBase ++ "rx_status"
  | .alarm => cfg.topicBase ++ decimalSerial serial ++ "/alarm"
  | .status => cfg.topicBase ++ decimalSerial serial ++ "/status"

end Sys2Proof.Machine
end

