-- ==== Sys2Proof/Machine/Flags.lean ====
section
/-! DEFINITION. The flags of a device (rule R24): what a status byte makes of a record, and what is published for
it. -/

namespace Sys2Proof.Machine

/-- `alarm_state = status & LOOP_MASK` (rule R167). -/
def alarmState (cfg : Config) (status : Byte) : Byte := status &&& cfg.loopMask

/-- The lowered baseline, an unsigned minimum (rule R168). -/
def lowerBaseline (baseline alarmState : Byte) : Byte := if alarmState < baseline then alarmState else baseline

/-- `alarm = (alarm_state > min_alarm_state_seen)`, unsigned and strict, on the lowered baseline (rule R169). -/
def alarmFlag (alarmState baseline : Byte) : Bool := decide (baseline < alarmState)

/-- A flag bit of the status byte under the polarity of the configuration: active-low here (rule R170,
90_conflicts.md C2). -/
def statusFlag (cfg : Config) (status bit : Byte) : Bool :=
  if cfg.flagsActiveLow then status &&& bit == 0#8 else status &&& bit != 0#8

/-- The record of a serial seen for the first time (rule R166). -/
def freshDevice (cfg : Config) : DeviceState where
  minAlarmStateSeen := cfg.baselineSentinel
  alarm := false
  tamper := false
  batteryLow := false
  timeout := false
  lastRawState := 0x00#8
  lastUpdateTime := cfg.epoch
  lastAlarmTime := cfg.epoch

/-- Steps 2 to 6 of `DEV.UPDATE` on one record (rules R167 to R171). -/
def updatedDevice (cfg : Config) (status : Byte) (now : Time) (e : DeviceState) : DeviceState :=
  let state := alarmState cfg status
  let baseline := lowerBaseline e.minAlarmStateSeen state
  let alarm := alarmFlag state baseline
  { e with
    minAlarmStateSeen := baseline
    alarm := alarm
    tamper := statusFlag cfg status cfg.tamperBit
    batteryLow := statusFlag cfg status cfg.batteryBit
    timeout := false
    lastAlarmTime := if alarm then now else e.lastAlarmTime }

/-- The alarm topic's payload (rule R175). -/
def alarmPayload (alarm : Bool) : PubPayload := if alarm then .alarm else .ok

/-- The status topic's payload (rule R81). -/
def statusPayload (tamper batteryLow : Bool) : PubPayload :=
  match tamper, batteryLow with
  | false, false => .ok
  | true, false => .tamper
  | false, true => .lowBatt
  | true, true => .tamperLowBatt

end Sys2Proof.Machine
end

