-- ==== Sys2Proof/Machine/Sweep.lean ====
section
/-! DEFINITION. Sub-block 9, the timeout sweep (47_timeout_sweep.md). -/

namespace Sys2Proof.Machine

/-- The test of rule R191: silent for more than `SENSOR_TIMEOUT` and not yet flagged. -/
def timesOut (cfg : Config) (now : Time) (e : DeviceState) : Bool :=
  decide (cfg.sensorTimeout < elapsed cfg now e.lastUpdateTime) && !e.timeout

/-- The test and action for one serial (rule R191). -/
def sweepOne (cfg : Config) (now : Time) (s : State) (serial : Serial) : State :=
  match memRead s.registry serial with
  | none => s
  | some e =>
    if timesOut cfg now e then
      { s with registry := memWrite s.registry serial { e with timeout := true } }.emit
        (.publish .status serial .timeout)
    else s

/-- `SWEEP` (rule R190): every present entry, in the order of the configuration, ascending here (rule R195). -/
def sweepAll (cfg : Config) (now : Time) (s : State) : State :=
  (cfg.sweepOrder (presentSerials s.registry)).foldl (sweepOne cfg now) s

/-- The meaning of `SWEEP`. It takes the time as valid, so `now_valid` is not read (rule R243; log 5). -/
def execSweep (clock : Clock) (s : State) : Host.Outcome State Fault Refusal :=
  .next (runPlain s (sweepAll hardware clock.now))

end Sys2Proof.Machine
end

