-- ==== Sys2Proof/Machine/Registry.lean ====
section
/-! DEFINITION. Sub-block 8, the device registry (46_device_registry.md): `DEV.UPDATE` and `DEV.NOTIFY`. -/

namespace Sys2Proof.Machine

/-- The notification gate of rule R174: another status byte, or more than `NOTIFY_MIN_INTERVAL` since the last
notification. -/
def notifyGate (cfg : Config) (status : Byte) (now : Time) (e : DeviceState) : Bool :=
  status != e.lastRawState || decide (cfg.notifyMinInterval < elapsed cfg now e.lastUpdateTime)

/-- The record `DEV.NOTIFY` reads, and the state after the read. Inside the block the entry is always present
(rule R172); driven on its own for an absent serial, the record is free, and the entry stays absent (rule R47, log 7). -/
def notifyRead (serial : Serial) (s : State) : DeviceState × State :=
  match memRead s.registry serial with
  | some e => (e, s)
  | none => (.unpack (Config.freeRecord serial s.freeReads), { s with freeReads := s.freeReads + 1 })

/-- What a notified update does (rules R175 to R177): the two publishes, the bookkeeping, the sweep, the listing. -/
def notifyDevice (cfg : Config) (serial : Serial) (status : Byte) (now : Time) (e : DeviceState) (s : State) : State :=
  let published := (s.emit (.publish .alarm serial (alarmPayload e.alarm))).emit
    (.publish .status serial (statusPayload e.tamper e.batteryLow))
  let kept : DeviceState := { e with lastUpdateTime := now, lastRawState := status }
  let swept := sweepAll cfg now { published with registry := memRefresh published.registry serial kept }
  swept.emit (.deviceList serial (listing swept.registry))

/-- `DEV.NOTIFY(serial, status)` (rule R174). -/
def devNotify (cfg : Config) (serial : Serial) (status : Byte) (now : Time) (s : State) : State :=
  let (e, s) := notifyRead serial s
  if notifyGate cfg status now e then notifyDevice cfg serial status now e s else s

/-- The record that `DEV.UPDATE` stores (rules R166 to R171). -/
def storedDevice (cfg : Config) (m : Memory) (serial : Serial) (status : Byte) (now : Time) : DeviceState :=
  updatedDevice cfg status now ((memRead m serial).getD (freshDevice cfg))

/-- `DEV.UPDATE(serial, status)` (rule R165). -/
def devUpdate (cfg : Config) (serial : Serial) (status : Byte) (now : Time) (s : State) : State :=
  devNotify cfg serial status now
    { s with registry := memWrite s.registry serial (storedDevice cfg s.registry serial status now) }

/-- The meaning of `DEV.UPDATE`. It takes the time as valid, so `now_valid` is not read (rule R243; log 5). -/
def execDevUpdate (serial : Serial) (status : Byte) (clock : Clock) (s : State) : Host.Outcome State Fault Refusal :=
  .next (runPlain s (devUpdate hardware serial status clock.now))

/-- The meaning of `DEV.NOTIFY`. It takes the time as valid, so `now_valid` is not read (rule R243; log 5). -/
def execDevNotify (serial : Serial) (status : Byte) (clock : Clock) (s : State) : Host.Outcome State Fault Refusal :=
  .next (runPlain s (devNotify hardware serial status clock.now))

end Sys2Proof.Machine
end

