-- ==== Sys2Proof/Machine/RxHealth.lean ====
section
/-! DEFINITION. The RX Health Monitor (48_rx_health_and_boundary.md): `RXH.MARK`, and the host operation `RXFAIL`. -/

namespace Sys2Proof.Machine

/-- The health gate of rule R201: the value changes, or more than `RX_MIN_INTERVAL` has elapsed. -/
def rxGate (cfg : Config) (g : Bool) (now : Time) (s : State) : Bool :=
  g != s.rxGood || decide (cfg.rxMinInterval < elapsed cfg now s.rxLastPublishTime)

/-- `RXH.MARK(g)` (rule R201). -/
def rxhMark (cfg : Config) (g : Bool) (now : Time) (s : State) : State :=
  if rxGate cfg g now s then
    { s.emit (.publish .rxStatus 0#20 (if g then .ok else .failed)) with rxLastPublishTime := now, rxGood := g }
  else { s with rxGood := g }

/-- `RXFAIL` on a running block (rule R203). -/
def rxFail (cfg : Config) (clock : Clock) (s : State) : Call :=
  if clock.valid then .returned (rxhMark cfg false clock.now s)
  else raiseClockFault clockAtRxfail s

/-- The meaning of `RXH.MARK`. "The caller has already checked `now_valid`": it is not read here (rule R201; log 5). -/
def execRxhMark (g : Bool) (clock : Clock) (s : State) : Host.Outcome State Fault Refusal :=
  .next (runPlain s (rxhMark hardware g clock.now))

/-- The meaning of `RXFAIL`. -/
def execRxfail (now : Time) (nowValid : Bool) (s : State) : Host.Outcome State Fault Refusal :=
  .next (runCall s (rxFail hardware ⟨now, nowValid⟩))

end Sys2Proof.Machine
end

