-- ==== Sys2Proof/Machine/Crc.lean ====
section
/-! DEFINITION. Sub-block 7, the payload validator (45_crc_validator.md): `CRC.CHECK` and its two polynomial
selections. -/

namespace Sys2Proof.Machine

/-- `CRC.POLY.2GIG` is the selection for this brand (rule R66). -/
def is2gig (cfg : Config) (brand : BitVec 4) : Bool := cfg.brand2gig.contains brand

/-- The polynomial of a brand (rule R151). -/
def polyOf (cfg : Config) (brand : BitVec 4) : Poly :=
  if is2gig cfg brand then cfg.poly2gig else cfg.polyDefault

/-- The decision `CRC.POLY.2GIG`: selects `POLY_2GIG` if the brand is in the set; else it is not selected and does
nothing (rules R66, R151; log 6). -/
def crcPoly2gig (cfg : Config) (brand : BitVec 4) (s : State) : State :=
  if is2gig cfg brand then { s with selectedPoly := some cfg.poly2gig } else s

/-- The decision `CRC.POLY.DEFAULT`: selects `POLY_DEFAULT` for every brand that `CRC.POLY.2GIG` does not match
(rules R66, R151; log 6). -/
def crcPolyDefault (cfg : Config) (brand : BitVec 4) (s : State) : State :=
  if is2gig cfg brand then s else { s with selectedPoly := some cfg.polyDefault }

/-- One iteration of the division of rule R153. -/
def divisionStep (poly : Poly) (sum : BitVec 48) (i : Nat) : BitVec 48 :=
  if sum.getLsbD (i + 16) then sum ^^^ (poly.setWidth 48 <<< i) else sum

/-- The iterations `i = n - 1` down to 0. -/
def divisionLoop (poly : Poly) : Nat → BitVec 48 → BitVec 48
  | 0, sum => sum
  | i + 1, sum => divisionLoop poly i (divisionStep poly sum i)

/-- `rem` of rule R153: the remainder of the non-sync bits modulo the polynomial of the brand. -/
def crcRemainder (cfg : Config) (p : Payload) : BitVec 48 :=
  divisionLoop (polyOf cfg (brandOf p)) 32 (nonsync p)

/-- The verdict of rule R154. -/
def crcValid (cfg : Config) (p : Payload) : Bool := crcRemainder cfg p == 0#48

/-- `CRC.CHECK(p)` (rule R155). -/
def crcCheck (cfg : Config) (p : Payload) (clock : Clock) (s : State) : Call :=
  let counted := { s with payloadCount := countUp cfg s.payloadCount }
  let selected := crcPolyDefault cfg (brandOf p) (crcPoly2gig cfg (brandOf p) counted)
  if crcValid cfg p then
    if clock.valid then
      .returned (devUpdate cfg (serialOf p) (statusOf p) clock.now (rxhMark cfg true clock.now selected))
    else raiseClockFault clockAtPayload selected
  else
    let failed := { selected with errorCount := countUp cfg selected.errorCount }
    .returned (failed.emit (.crcFail p failed.errorCount failed.payloadCount))

/-- The meaning of `CRC.CHECK`. -/
def execCrcCheck (p : Payload) (now : Time) (nowValid : Bool) (s : State) : Host.Outcome State Fault Refusal :=
  .next (runCall s (crcCheck hardware p ⟨now, nowValid⟩))

/-- The meaning of `CRC.POLY.2GIG`. -/
def execCrcPoly2gig (brand : BitVec 4) (s : State) : Host.Outcome State Fault Refusal :=
  .next (runPlain s (crcPoly2gig hardware brand))

/-- The meaning of `CRC.POLY.DEFAULT`. -/
def execCrcPolyDefault (brand : BitVec 4) (s : State) : Host.Outcome State Fault Refusal :=
  .next (runPlain s (crcPolyDefault hardware brand))

end Sys2Proof.Machine
end

