-- ==== Sys2Proof/Machine/Frame.lean ====
section
/-! DEFINITION. Sub-blocks 5 and 6, the frame assembler (44_frame_assembler.md): `FRM.SHIFT` and `FRM.DETECT`. -/

namespace Sys2Proof.Machine

/-- A chip, mid-bit sample or decoded bit outside {0, 1} (rules R110, R127, R140, R247). -/
def malformed (b : Byte) : Bool := b != 0#8 && b != 1#8

/-- The shift-left-and-insert of rule R140; the bit that was at the top is lost. -/
def shiftIn (frame : BitVec 64) (d : Byte) : BitVec 64 := frame <<< 1 ||| d.setWidth 64

/-- `FRM.DETECT` (rule R142): hand over, then clear. -/
def frmDetect (cfg : Config) (clock : Clock) (s : State) : Call :=
  if syncOf s.frame = cfg.syncPattern then
    (crcCheck cfg s.frame clock s).andThen fun t => .returned { t with frame := 0#64 }
  else .returned s

/-- `FRM.SHIFT(d)` (rule R140). -/
def frmShift (cfg : Config) (d : Byte) (clock : Clock) (s : State) : Call :=
  if malformed d then .returned s
  else frmDetect cfg clock { s with frame := shiftIn s.frame d }

/-- The meaning of `FRM.SHIFT`. -/
def execFrmShift (d : Byte) (now : Time) (nowValid : Bool) (s : State) : Host.Outcome State Fault Refusal :=
  .next (runCall s (frmShift hardware d ⟨now, nowValid⟩))

/-- The meaning of `FRM.DETECT`. -/
def execFrmDetect (now : Time) (nowValid : Bool) (s : State) : Host.Outcome State Fault Refusal :=
  .next (runCall s (frmDetect hardware ⟨now, nowValid⟩))

end Sys2Proof.Machine
end

