-- ==== Sys2Proof/Machine/Manchester.lean ====
section
/-! DEFINITION. Sub-block 4, the Manchester decoder (43_manchester_decoder.md): `MAN.STEP` and its eight decisions. -/

namespace Sys2Proof.Machine

/-- The transition table of rule R121. -/
def nextPhase : Phase → Bool → Phase
  | .lowA, false => .lowA
  | .lowA, true => .highB
  | .lowB, false => .lowA
  | .lowB, true => .highA
  | .highA, false => .lowB
  | .highA, true => .highA
  | .highB, false => .lowA
  | .highB, true => .highA

/-- The decoded bit that is pending in a state and emitted when the machine is evaluated in it (rule R126). -/
def pendingBit : Phase → Option Byte
  | .lowA => none
  | .lowB => some 0#8
  | .highA => none
  | .highB => some 1#8

/-- The emission of an evaluation, "before the transition for the current input is applied" (rule R126). -/
def emitPending (cfg : Config) (clock : Clock) (s : State) : Call :=
  match pendingBit s.phase with
  | none => .returned s
  | some d => frmShift cfg d clock s

/-- The decision of one selector: the emission of the state held on entry, then the transition, which a fault on the
way does not reach (rules R120, R245). -/
def manDecide (cfg : Config) (b : Bool) (clock : Clock) (s : State) : Call :=
  (emitPending cfg clock s).andThen fun t => .returned { t with phase := nextPhase s.phase b }

/-- `MAN.STEP(b)` (rule R120). -/
def manStep (cfg : Config) (b : Byte) (clock : Clock) (s : State) : Call :=
  if malformed b then .returned s else manDecide cfg (b == 1#8) clock s

/-- One row of the transition table on its own: the decision is made if the selector's phase is the machine's, else
the row is not selected and does nothing (rule R65; log 6). -/
def manRow (cfg : Config) (row : Phase) (b : Bool) (clock : Clock) (s : State) : Call :=
  if s.phase = row then manDecide cfg b clock s else .returned s

/-- The clock of a row that emits nothing and so reads no time. -/
def noClock : Clock := ⟨0#64, false⟩

/-- The meaning of `MAN.STEP`. -/
def execManStep (b : Byte) (now : Time) (nowValid : Bool) (s : State) : Host.Outcome State Fault Refusal :=
  .next (runCall s (manStep hardware b ⟨now, nowValid⟩))

/-- The meaning of `MAN.LowA.0` (rule R122). -/
def execManLowA0 (s : State) : Host.Outcome State Fault Refusal :=
  .next (runCall s (manRow hardware .lowA false noClock))

/-- The meaning of `MAN.LowA.1` (rule R122). -/
def execManLowA1 (s : State) : Host.Outcome State Fault Refusal :=
  .next (runCall s (manRow hardware .lowA true noClock))

/-- The meaning of `MAN.LowB.0` (rule R123). -/
def execManLowB0 (now : Time) (nowValid : Bool) (s : State) : Host.Outcome State Fault Refusal :=
  .next (runCall s (manRow hardware .lowB false ⟨now, nowValid⟩))

/-- The meaning of `MAN.LowB.1` (rule R123). -/
def execManLowB1 (now : Time) (nowValid : Bool) (s : State) : Host.Outcome State Fault Refusal :=
  .next (runCall s (manRow hardware .lowB true ⟨now, nowValid⟩))

/-- The meaning of `MAN.HighA.0` (rule R124). -/
def execManHighA0 (s : State) : Host.Outcome State Fault Refusal :=
  .next (runCall s (manRow hardware .highA false noClock))

/-- The meaning of `MAN.HighA.1` (rule R124). -/
def execManHighA1 (s : State) : Host.Outcome State Fault Refusal :=
  .next (runCall s (manRow hardware .highA true noClock))

/-- The meaning of `MAN.HighB.0` (rule R125). -/
def execManHighB0 (now : Time) (nowValid : Bool) (s : State) : Host.Outcome State Fault Refusal :=
  .next (runCall s (manRow hardware .highB false ⟨now, nowValid⟩))

/-- The meaning of `MAN.HighB.1` (rule R125). -/
def execManHighB1 (now : Time) (nowValid : Bool) (s : State) : Host.Outcome State Fault Refusal :=
  .next (runCall s (manRow hardware .highB true ⟨now, nowValid⟩))

end Sys2Proof.Machine
end

