-- ==== Sys2Proof/Machine/Synchronizer.lean ====
section
/-! DEFINITION. Sub-block 3, the bit synchronizer (42_bit_synchronizer.md): `SYNC.CHIP`. -/

namespace Sys2Proof.Machine

/-- The since-edge counter after a chip (rule R111): 1 on an edge, else one more. -/
def countChip (c lastChip : BitVec 1) (sinceEdge : Nat) : Nat := if c ≠ lastChip then 1 else sinceEdge + 1

/-- A mid-bit sample is taken at this count (rule R112). -/
def isMidBit (cfg : Config) (sinceEdge : Nat) : Bool := sinceEdge % cfg.chipPeriod == cfg.chipHalf

/-- `SYNC.CHIP(c)` (rule R113): the guard, the edge detection, the sampling. -/
def syncChip (cfg : Config) (c : Byte) (clock : Clock) (s : State) : Call :=
  if malformed c then .returned s
  else
    let chip : BitVec 1 := c.setWidth 1
    let count := countChip chip s.lastChip s.sinceEdge
    let counted := { s with lastChip := chip, sinceEdge := count }
    if isMidBit cfg count then manStep cfg c clock counted else .returned counted

/-- The meaning of `SYNC.CHIP`. -/
def execSyncChip (c : Byte) (now : Time) (nowValid : Bool) (s : State) : Host.Outcome State Fault Refusal :=
  .next (runCall s (syncChip hardware c ⟨now, nowValid⟩))

end Sys2Proof.Machine
end

