-- ==== Sys2Proof/Machine/Peak.lean ====
section
/-! DEFINITION. Sub-block 2, the peak threshold (41_peak_threshold.md): `PEAK.FORWARD`. -/

namespace Sys2Proof.Machine

/-- The clamp of rule R100. -/
def clampTop (cfg : Config) (v : Binary32) : Binary32 := if cfg.float.gt v cfg.clampMax then cfg.clampMax else v

/-- The peak update of rule R101: decay, raise to the clamped value, raise to the floor, in this order. -/
def nextPeak (cfg : Config) (c ookMax : Binary32) : Binary32 :=
  let decayed := cfg.float.sub ookMax cfg.peakDecay
  let raised := if cfg.float.gt c decayed then c else decayed
  if cfg.float.gt cfg.peakFloor raised then cfg.peakFloor else raised

/-- The threshold of rule R102. -/
def chipThreshold (cfg : Config) (ookMax : Binary32) : Binary32 := cfg.float.mul ookMax cfg.ookThresholdRatio

/-- The chip decision of rule R102, on the peak just written. -/
def chipOf (cfg : Config) (c ookMax : Binary32) : Byte :=
  if cfg.float.gt c (chipThreshold cfg ookMax) then 1#8 else 0#8

/-- `PEAK.FORWARD(v)` (rule R103). -/
def peakForward (cfg : Config) (v : Binary32) (clock : Clock) (s : State) : Call :=
  let c := clampTop cfg v
  let peak := nextPeak cfg c s.ookMax
  syncChip cfg (chipOf cfg c peak) clock { s with ookMax := peak }

/-- The meaning of `PEAK.FORWARD`. -/
def execPeakForward (v : Binary32) (now : Time) (nowValid : Bool) (s : State) : Host.Outcome State Fault Refusal :=
  .next (runCall s (peakForward hardware v ⟨now, nowValid⟩))

end Sys2Proof.Machine
end

