-- ==== Sys2Proof/Machine/Envelope.lean ====
section
/-! DEFINITION. Sub-block 1, the smoothing filter and decimator (40_envelope_filter.md): `ENV.FILTER` and
`ENV.DECIM`. -/

namespace Sys2Proof.Machine

/-- The filter of rule R90: two products, then one sum, three roundings. -/
def smoothe (cfg : Config) (smoothed m : Binary32) : Binary32 :=
  cfg.float.add (cfg.float.mul cfg.alpha smoothed) (cfg.float.mul cfg.oneMinusAlpha m)

/-- `ENV.FILTER(m)` (rule R90). -/
def envFilter (cfg : Config) (m : Binary32) (s : State) : State := { s with smoothed := smoothe cfg s.smoothed m }

/-- `ENV.DECIM` (rule R91); `PEAK.FORWARD` receives `smoothed` by value (rule R92). -/
def envDecim (cfg : Config) (clock : Clock) (s : State) : Call :=
  let count := s.decimCount + 1
  if count = cfg.decimRatio then peakForward cfg s.smoothed clock { s with decimCount := 0 }
  else .returned { s with decimCount := count }

/-- The meaning of `ENV.FILTER`. -/
def execEnvFilter (m : Binary32) (s : State) : Host.Outcome State Fault Refusal :=
  .next (runPlain s (envFilter hardware m))

/-- The meaning of `ENV.DECIM`. -/
def execEnvDecim (now : Time) (nowValid : Bool) (s : State) : Host.Outcome State Fault Refusal :=
  .next (runCall s (envDecim hardware ⟨now, nowValid⟩))

end Sys2Proof.Machine
end

