-- ==== Sys2Proof/Machine/HostOps.lean ====
section
/-! DEFINITION. The host operations of rule R220 but `RXFAIL` (Sys2Proof/Machine/RxHealth.lean): `SAMPLE`, `RESET`,
and the idle code of rule R72. -/

namespace Sys2Proof.Machine

/-- `SAMPLE` on a running block (rule R223). -/
def takeSample (cfg : Config) (m : Binary32) (clock : Clock) (s : State) : Call := envDecim cfg clock (envFilter cfg m s)

/-- The meaning of `IDLE`: no step; it "changes nothing, produces nothing" (rule R72, decision D2). -/
def execIdle (s : State) : Host.Outcome State Fault Refusal := .next s.startStep

/-- The meaning of `SAMPLE`. -/
def execSample (m : Binary32) (now : Time) (nowValid : Bool) (s : State) : Host.Outcome State Fault Refusal :=
  .next (runCall s (takeSample hardware m ⟨now, nowValid⟩))

/-- The meaning of `RESET`, carried out "whether or not the block is halted" (rule R270). -/
def execReset (s : State) : Host.Outcome State Fault Refusal := .next (resetBlock hardware s.startStep)

end Sys2Proof.Machine
end

