-- ==== Sys2Proof/Machine/Dispatch.lean ====
section
/-! DEFINITION. The meaning of each operation. -/

namespace Sys2Proof.Machine

def exec (i : Instr) (s : State) : Host.Outcome State Fault Refusal :=
  match i with
  -- host operations (rule R220) and the idle code (rule R72)
  | .idle => Sys2Proof.Machine.execIdle s
  | .sample m now nowValid => Sys2Proof.Machine.execSample m now nowValid s
  | .rxfail now nowValid => Sys2Proof.Machine.execRxfail now nowValid s
  | .reset => Sys2Proof.Machine.execReset s
  -- stage operations (rule R70) and the decisions of rules R65 and R66
  | .envFilter m => Sys2Proof.Machine.execEnvFilter m s
  | .envDecim now nowValid => Sys2Proof.Machine.execEnvDecim now nowValid s
  | .peakForward v now nowValid => Sys2Proof.Machine.execPeakForward v now nowValid s
  | .syncChip c now nowValid => Sys2Proof.Machine.execSyncChip c now nowValid s
  | .manStep b now nowValid => Sys2Proof.Machine.execManStep b now nowValid s
  | .manLowA0 => Sys2Proof.Machine.execManLowA0 s
  | .manLowA1 => Sys2Proof.Machine.execManLowA1 s
  | .manLowB0 now nowValid => Sys2Proof.Machine.execManLowB0 now nowValid s
  | .manLowB1 now nowValid => Sys2Proof.Machine.execManLowB1 now nowValid s
  | .manHighA0 => Sys2Proof.Machine.execManHighA0 s
  | .manHighA1 => Sys2Proof.Machine.execManHighA1 s
  | .manHighB0 now nowValid => Sys2Proof.Machine.execManHighB0 now nowValid s
  | .manHighB1 now nowValid => Sys2Proof.Machine.execManHighB1 now nowValid s
  | .frmShift d now nowValid => Sys2Proof.Machine.execFrmShift d now nowValid s
  | .frmDetect now nowValid => Sys2Proof.Machine.execFrmDetect now nowValid s
  | .crcCheck p now nowValid => Sys2Proof.Machine.execCrcCheck p now nowValid s
  | .crcPoly2gig brand => Sys2Proof.Machine.execCrcPoly2gig brand s
  | .crcPolyDefault brand => Sys2Proof.Machine.execCrcPolyDefault brand s
  | .rxhMark g clock => Sys2Proof.Machine.execRxhMark g clock s
  | .devUpdate serial status clock => Sys2Proof.Machine.execDevUpdate serial status clock s
  | .devNotify serial status clock => Sys2Proof.Machine.execDevNotify serial status clock s
  | .sweep clock => Sys2Proof.Machine.execSweep clock s

end Sys2Proof.Machine
end

