-- ==== Sys2Proof/Machine/Step.lean ====
section
/-! DEFINITION. One step: the next operation the host presents, carried out from start to finish (rule R220). -/

namespace Sys2Proof.Machine

/-- One step. With nothing presented "a block with no input simply takes no step" (rule R230): the idle code. -/
def step (s : State) : Host.Outcome State Fault Refusal :=
  match s.input with
  | [] => exec .idle s
  | w :: rest =>
    match decode w with
    | .ok i => exec i { s with input := rest }
    | .error reason => .refused (.notAnOperation reason)

/-- The state with one more operation presented, ahead of the others: the next step runs it. -/
def State.withFetchWord (s : State) (nbits w : Nat) : State := { s with input := tableWord nbits w :: s.input }

end Sys2Proof.Machine
end

