-- ==== Sys2Proof/Machine/Magnitude.lean ====
section
/-! DEFINITION. The host's magnitude lookup (rule R210). It lies outside the block (90_conflicts.md C5): no step reads
it. It says where the samples of a host that keeps rule R280 come from. -/

namespace Sys2Proof.Machine

/-- The square of 1280 times the magnitude of an I/Q byte pair, an exact integer: `real = (byte - 127.4) / 128` makes
`1280 * real = 10 * byte - 1274`. -/
def magnitudeSquared (i q : Byte) : Nat :=
  ((10 * (i.toNat : Int) - 1274) ^ 2 + (10 * (q.toNat : Int) - 1274) ^ 2).toNat

/-- The integer square root of `n`, found bit by bit from bit `bits - 1` down, on top of a root found so far. -/
def sqrtBits (n : Nat) : Nat → Nat → Nat
  | 0, root => root
  | k + 1, root => sqrtBits n k (if (root + 2 ^ k) ^ 2 ≤ n then root + 2 ^ k else root)

/-- One entry of the table: `sqrt(real² + imag²)` rounded once to binary32. DESIGN CHOICE (log 16): the spec does not
give the precision in which the table is computed. -/
def magnitudeOf (i q : Byte) : Binary32 :=
  let scaled := magnitudeSquared i q * 2 ^ 80
  let root := sqrtBits (scaled / 1280 ^ 2) 41 0
  fRound false (2 * root + if root ^ 2 * 1280 ^ 2 = scaled then 0 else 1) (-41)

/-- The table itself, by the 16-bit interleaved pair. Which byte is the high half is not given; the magnitude is
symmetric in the two, so the table is the same either way. -/
def magnitudeTable (pair : BitVec 16) : Binary32 := magnitudeOf (pair.extractLsb' 8 8) (pair.extractLsb' 0 8)

end Sys2Proof.Machine
end

