-- ==== Sys2Proof/Machine/Ports.lean ====
section
/-! DEFINITION. The informative port binding of rule R86, as far as it is a matter of values: which operation the
input ports present, and what an event puts on the output ports. Cycles, `ready` and the one-event-per-cycle hand-over
are timing, which no rule fixes (rules R86, R292). -/

namespace Sys2Proof.Machine

/-- The input ports. -/
structure InputPorts where
  rst : Bool
  op : BitVec 2
  sample : Binary32
  now : Time
  nowValid : Bool
  deriving DecidableEq, Repr

/-- The operation the input ports present: `rst` asserted together with an `op` gives the reset and drops the `op`
(rules R86, R252); the codes are those of rule R72. -/
def InputPorts.operation (p : InputPorts) : Instr :=
  if p.rst then .reset
  else if p.op = 1#2 then .sample p.sample p.now p.nowValid
  else if p.op = 2#2 then .rxfail p.now p.nowValid
  else if p.op = 3#2 then .reset
  else .idle

/-- The publish ports `pub_kind`, `pub_serial`, `pub_payload`. -/
structure PubPorts where
  kind : BitVec 2
  serial : Serial
  payload : BitVec 3
  deriving DecidableEq, Repr

/-- The publish ports for an event, `none` where `pub_valid` is 0 (rules R78, R80, R86). -/
def pubPorts : Event → Option PubPorts
  | .publish kind serial payload => some ⟨kind.code, serial, payload.code⟩
  | .crcFail _ _ _ => none
  | .deviceList _ _ => none

/-- The `diag_kind` port for an event, `none` where `diag_valid` is 0 (rules R86, R241). -/
def diagKind : Event → Option (BitVec 1)
  | .publish _ _ _ => none
  | .crcFail _ _ _ => some 0#1
  | .deviceList _ _ => some 1#1

end Sys2Proof.Machine
end

