-- ==== Sys2Proof/Machine/Trace.lean ====
section
/-! DEFINITION. The pseudo-operations of the trace notation (rules R84, R85): lists of operations, and the two
functions `CRC16` and `FRAME`. The `@<t>` or `NOCLOCK` of a pseudo-operation is a `Clock`, and "applies to every
operation of the expansion". -/

namespace Sys2Proof.Machine

/-- `@<t>`. -/
def atTime (now : Time) : Clock := ⟨now, true⟩

/-- `NOCLOCK`; "`now` is then irrelevant" (rule R84), so any value may stand there. -/
def withoutClock (now : Time) : Clock := ⟨now, false⟩

/-- `SAMPLES <m> × <n>`. -/
def traceSamples (m : Binary32) (n : Nat) (clock : Clock) : List Instr :=
  List.replicate n (.sample m clock.now clock.valid)

/-- `CHIPS <c> × <n>`. -/
def traceChips (c : Byte) (n : Nat) (clock : Clock) : List Instr :=
  List.replicate n (.syncChip c clock.now clock.valid)

/-- `CELL <c>`: one nominal half-bit cell. -/
def traceCell (c : Byte) (clock : Clock) : List Instr := traceChips c 8 clock

/-- A level as a chip. -/
def chipLevel (level : Bool) : Byte := if level then 1#8 else 0#8

/-- `MBIT <b>`: low then high for a 1, high then low for a 0. -/
def traceBit (b : Bool) (clock : Clock) : List Instr :=
  traceCell (chipLevel !b) clock ++ traceCell (chipLevel b) clock

/-- The bits of a payload in the order they are sent, bit 63 first (rule R44). -/
def sentBits (p : Payload) : List Bool := (List.range 64).map fun k => p.getLsbD (63 - k)

/-- `MFRAME <p>`. -/
def traceFrame (p : Payload) (clock : Clock) : List Instr := (sentBits p).flatMap fun b => traceBit b clock

/-- `SCELL <c>`, for the two levels its rule gives: one nominal half-bit cell at sample level. -/
def traceSampleCell (level : Bool) (clock : Clock) : List Instr :=
  traceSamples (if level then 0x3F800000#32 else 0#32) 136 clock

/-- `SFRAME <p>`: `MFRAME` with `SCELL` in place of `CELL`. -/
def traceSampleFrame (p : Payload) (clock : Clock) : List Instr :=
  (sentBits p).flatMap fun b => traceSampleCell (!b) clock ++ traceSampleCell b clock

/-- `CRC16(poly, w)`: the remainder of `w << 16` divided by the polynomial. -/
def crc16 (poly : Poly) (w : BitVec 32) : BitVec 16 := (divisionLoop poly 32 (w.setWidth 48 <<< 16)).setWidth 16

/-- `FRAME <brand> <serial> <status>`: the payload with the check field that makes its remainder zero. -/
def frameWord (cfg : Config) (brand : BitVec 4) (serial : Serial) (status : Byte) : Payload :=
  let w : BitVec 32 := brand ++ serial ++ status
  cfg.syncPattern ++ w ++ crc16 (polyOf cfg brand) w

/-- The state after a trace: the operations one after another (rule R49). -/
def runTrace : List Instr → State → State
  | [], s => s
  | i :: rest, s =>
    match exec i s with
    | .next t => runTrace rest t
    | .fault _ => s
    | .refused _ => s

end Sys2Proof.Machine
end

