-- ==== Sys2Proof/Safety.lean ====
section
/-! DEFINITION. What counts as a legal state, what is observed of a run, the duties of the host, and the terms the
statements use. -/

namespace Sys2Proof.Machine

/-- The invariant of the block: the canonical form of the registry, and the parts of rules R15, R18, R23, R28 and
R241 that every step keeps. -/
structure State.Inv (s : State) : Prop where
  /-- The registry is in its canonical form (rule R21, "keys unique"). -/
  registry_wf : s.registry.wf
  /-- `0 ≤ decim_count ≤ 16` (rule R28 item 4). -/
  decim_le : s.decimCount ≤ 16
  /-- No sync match is left in the frame register of a running block (rule R18). -/
  window_clean : s.halted = false → syncOf s.frame ≠ 0xFFFE#16
  /-- `fault_cause` is 0 while `halted` is false (rule R23). -/
  cause_running : s.halted = false → s.faultCause = 0#2
  /-- A halted block holds one of the two causes of rule R241. -/
  cause_halted : s.halted = true → s.faultCause = 1#2 ∨ s.faultCause = 2#2

/-- A publish event, the observable kind (rule R227). -/
def Event.isPublish : Event → Bool
  | .publish _ _ _ => true
  | .crcFail _ _ _ => false
  | .deviceList _ _ => false

/-- The observation of `k` steps: the publish events in order (rule R227). -/
def observe : Nat → State → List Event
  | 0, _ => []
  | k + 1, s =>
    match step s with
    | .next t => t.output.filter Event.isPublish ++ observe k t
    | .fault _ => []
    | .refused _ => []

/-- How a run ends (rule R226): normal, or faulted with a cause. -/
def runEnd (s : State) : Option (BitVec 2) := if s.halted then some s.faultCause else none

/-- The host's duty on samples: finite and not negative (rule R280). Whether −0.0 is "not negative" the spec does not
say; DESIGN CHOICE (log 21): the sign bit decides, so −0.0 is outside the duty. -/
def sampleInDomain (m : Binary32) : Bool := !fIsNaN m && !fIsInf m && !fNeg m

/-- The host's duty on time across steps: never decreasing (rule R281). -/
def timesInOrder : List Time → Prop := List.Pairwise (· ≤ ·)

/-- The host's duty on the time of the first payload (rule R282). -/
def timePastEpoch (now : Time) : Prop := 60#64 < now

/-- A peak in the range of rule R101: from `PEAK_FLOOR` to 1.0. Positive words are ordered as their bits are. -/
def peakInRange (x : Binary32) : Prop := 0x3EAAAAAB#32 ≤ x ∧ x ≤ 0x3F800000#32

/-- The since-edge counts after each of `n` chips of one level (rule R111). -/
def runCounts (c : BitVec 1) : BitVec 1 → Nat → Nat → List Nat
  | _, _, 0 => []
  | last, count, n + 1 => countChip c last count :: runCounts c c (countChip c last count) n

/-- The decoded bits that a run of mid-bit samples emits, in order (rules R121, R126). -/
def emittedBits : Phase → List Bool → List Byte
  | _, [] => []
  | p, b :: rest => (pendingBit p).toList ++ emittedBits (nextPhase p b) rest

/-- The two mid-bit samples of a bit in step: low then high for a 1 (rule R129). -/
def halfCells (b : Bool) : List Bool := [!b, b]

/-- What one sweep does to one record (rule R191). -/
def flagged (now : Time) (e : DeviceState) : DeviceState :=
  if 27000#64 < now - e.lastUpdateTime ∧ e.timeout = false then { e with timeout := true } else e

/-- A publish event is one that rules R78 and R80 allow: a payload legal with its kind, and serial 0 for
`RX_STATUS`. Diagnostic events have no such rule. -/
def Event.legal : Event → Prop
  | .publish kind serial payload => payload.legalWith kind = true ∧ (kind = .rxStatus → serial = 0#20)
  | .crcFail _ _ _ => True
  | .deviceList _ _ => True

/-- Where an operation enters the call chain of rule R221: `RESET` 0, `SAMPLE` 1, `ENV.DECIM` 2, and so on down to
`SWEEP` 11; the operations that enter it nowhere (the filter alone, the idle code, the polynomial selections, the
health monitor) 12. -/
def entryStage : Instr → Nat
  | .reset => 0
  | .sample _ _ _ => 1
  | .envDecim _ _ => 2
  | .peakForward _ _ _ => 3
  | .syncChip _ _ _ => 4
  | .manStep _ _ _ => 5
  | .manLowA0 => 5
  | .manLowA1 => 5
  | .manLowB0 _ _ => 5
  | .manLowB1 _ _ => 5
  | .manHighA0 => 5
  | .manHighA1 => 5
  | .manHighB0 _ _ => 5
  | .manHighB1 _ _ => 5
  | .frmShift _ _ _ => 6
  | .frmDetect _ _ => 7
  | .crcCheck _ _ _ => 8
  | .devUpdate _ _ _ => 9
  | .devNotify _ _ _ => 10
  | .sweep _ => 11
  | .idle => 12
  | .rxfail _ _ => 12
  | .envFilter _ => 12
  | .crcPoly2gig _ => 12
  | .crcPolyDefault _ => 12
  | .rxhMark _ _ => 12

end Sys2Proof.Machine
end

