-- ==== Sys2Proof/Certificates/Slice0/Obligations.lean ====
section
/-! DEFINITION. The statements for the provers. They follow the numbered rules of spec/. A statement about an
operation gives the whole next state where it can, so that it is at once the result, the frame (every field it does
not name is that of the state before) and the completion. `s.startStep` is the state with its output list emptied and
no polynomial selected: what every step begins with. -/

open Sys2Proof Sys2Proof.Machine

/-! ### The step machine, reset and the halted block -/

/-- Rule R270: what `RESET` leaves, halted or not, and that it publishes nothing. -/
def Obligations.ResetLeavesTheResetValues : Prop :=
  ∀ s : State, exec .reset s = .next
    { s with
      smoothed := 0x00000000#32, decimCount := 0, ookMax := 0x3EAAAAAB#32, lastChip := 0#1, sinceEdge := 0
      phase := .lowA, frame := 0#64, payloadCount := 0#32, errorCount := 0#32, registry := [], rxGood := false
      rxLastPublishTime := 0#64, halted := false, faultCause := 0#2, output := [], selectedPoly := none }

/-- Rule R29: the table of the reset values, and the record of a freshly created entry. -/
def Obligations.ResetStateIsThatOfTheTable : Prop :=
  State.reset.smoothed = 0x00000000#32 ∧ State.reset.decimCount = 0 ∧ State.reset.ookMax = 0x3EAAAAAB#32 ∧
  State.reset.lastChip = 0#1 ∧ State.reset.sinceEdge = 0 ∧ State.reset.phase = .lowA ∧ State.reset.frame = 0#64 ∧
  State.reset.payloadCount = 0#32 ∧ State.reset.errorCount = 0#32 ∧
  (∀ serial, memRead State.reset.registry serial = none) ∧ State.reset.rxGood = false ∧
  State.reset.rxLastPublishTime = 0#64 ∧ State.reset.halted = false ∧ State.reset.faultCause = 0#2 ∧
  freshDevice hardware = ⟨0xFF#8, false, false, false, false, 0x00#8, 0#64, 0#64⟩ ∧
  exec .reset State.reset = .next State.reset

/-- The four host operation codes (rule R72) in the low bits of an operation word, which is the model's own (log 2),
and that the idle code leaves all but the output list and the shown polynomial, the model's own fields (log 4). -/
def Obligations.HostCodesAndTheIdleCode : Prop :=
  decodeTableWord 2 0 = some .idle ∧
  decodeTableWord 2 1 = some (.sample 0#32 0#64 false) ∧
  decodeTableWord 2 2 = some (.rxfail 0#64 false) ∧
  decodeTableWord 2 3 = some .reset ∧
  ∀ s : State, exec .idle s = .next { s with output := [], selectedPoly := none }

/-- Rule R222: on a halted block every operation but `RESET` changes nothing and produces nothing; and `RESET` is
carried out. -/
def Obligations.HaltedBlockRunsOnlyReset : Prop :=
  ∀ (i : Instr) (s : State), s.halted = true →
    (i ≠ .reset → exec i s = .next { s with output := [], selectedPoly := none }) ∧
    ∃ t, exec .reset s = .next t ∧ t.halted = false ∧ t.faultCause = 0#2

/-- A step carries out the operation the host presents next; with nothing presented it takes no step; a word that
stands for no operation is refused by name. The operation words are the model's (log 2). -/
def Obligations.StepRunsThePresentedOperation : Prop :=
  (∀ (s : State) (w : OpWord) (rest : List OpWord) (i : Instr),
    s.input = w :: rest → decode w = .ok i → step s = exec i { s with input := rest }) ∧
  (∀ s : State, s.input = [] → step s = .next { s with output := [], selectedPoly := none }) ∧
  (∀ (s : State) (w : OpWord) (rest : List OpWord) (r : DecodeError),
    s.input = w :: rest → decode w = .error r → step s = .refused (.notAnOperation r)) ∧
  (∀ (s : State) (nbits w : Nat) (i : Instr),
    decodeTableWord nbits w = some i → step (s.withFetchWord nbits w) = exec i s)

/-- A well-formed operation decodes from its word: no operand bit is dropped. -/
def Obligations.DecodeOfEncode : Prop :=
  ∀ i : Instr, i.wellFormed = true → decode (encode i) = .ok i

/-- Every word stands for at most one well-formed operation, whose word it is. -/
def Obligations.EncodeOfDecode : Prop :=
  ∀ (w : OpWord) (i : Instr), decode w = .ok i → i.wellFormed = true ∧ encode i = w

/-- Words written out from spec/opcode_table.json decode to the rows they stand for. Which row a bare table word
stands for (4 is also the selector of `MAN.STEP`), and that 8 stands for none (the rows of mask 0 match it), is the
model's choice (log 2). -/
def Obligations.WrittenWordsDecode : Prop :=
  decodeTableWord 3 4 = some .manHighA0 ∧
  decodeTableWord 3 5 = some .manHighA1 ∧
  decodeTableWord 3 6 = some (.manHighB0 0#64 false) ∧
  decodeTableWord 3 7 = some (.manHighB1 0#64 false) ∧
  decodeTableWord 5 0x10 = some (.peakForward 0#32 0#64 false) ∧
  decodeTableWord 64 0xFFFE803039A0163F = some (.crcCheck 0xFFFE803039A0163F#64 0#64 false) ∧
  decodeTableWord 8 8 = none

/-- The reset state satisfies the invariant, and its peak is in range. -/
def Obligations.InvariantHoldsAtReset : Prop := State.reset.Inv ∧ peakInRange State.reset.ookMax

/-- Every step keeps the invariant: the registry's canonical form, `decim_count` at most 16, no sync match left in a
running block, and a fault cause exactly where the block is halted (rules R15, R18, R21, R23, R28, R241; that of
rule R18 and the bound of rule R28 item 4 are the spec's own inferences). -/
def Obligations.StepKeepsTheInvariant : Prop :=
  ∀ s t : State, s.Inv → step s = .next t → t.Inv

/-- Rules R21 and R28 item 1: but for `RESET`, no operation deletes an entry or raises its baseline. -/
def Obligations.BaselinesNeverRiseAndEntriesStay : Prop :=
  ∀ (i : Instr) (s t : State) (serial : Serial) (e : DeviceState),
    i ≠ .reset → exec i s = .next t → memRead s.registry serial = some e →
    ∃ e', memRead t.registry serial = some e' ∧ e'.minAlarmStateSeen ≤ e.minAlarmStateSeen

/-- The spec's own inferences in rules R225 ("So no step both faults and publishes") and R245: a step that faults
hands out nothing, and keeps the elements that the table of rule R245 says are unchanged. -/
def Obligations.FaultingStepProducesNothing : Prop :=
  ∀ (i : Instr) (s t : State), s.halted = false → exec i s = .next t → t.halted = true →
    t.output = [] ∧ t.registry = s.registry ∧ t.rxGood = s.rxGood ∧ t.rxLastPublishTime = s.rxLastPublishTime ∧
    t.errorCount = s.errorCount ∧ t.phase = s.phase ∧
    ((t.faultCause = 1#2 ∧ t.payloadCount = s.payloadCount + 1) ∨
     (t.faultCause = 2#2 ∧ t.payloadCount = s.payloadCount))

/-- The spec's own inference in the table of rule R245, cause 1: the state a `SAMPLE` step leaves when a clock fault
abandons it, element by element, and the three things it takes: a forwarded sample, a pending bit and no clock. -/
def Obligations.StateAfterAnAbandonedSample : Prop :=
  ∀ (s t : State) (m : Binary32) (now : Time) (nowValid : Bool),
    s.halted = false → exec (.sample m now nowValid) s = .next t → t.halted = true →
    nowValid = false ∧ s.decimCount = 16 ∧
    (∃ d, pendingBit s.phase = some d ∧ t.frame = shiftIn s.frame d ∧ syncOf t.frame = 0xFFFE#16) ∧
    t.smoothed = fAdd (fMul 0x3F333333#32 s.smoothed) (fMul 0x3E99999A#32 m) ∧
    t.decimCount = 0 ∧ t.ookMax = nextPeak hardware (clampTop hardware t.smoothed) s.ookMax ∧
    t.lastChip = (chipOf hardware (clampTop hardware t.smoothed) t.ookMax).setWidth 1 ∧
    t.sinceEdge = countChip t.lastChip s.lastChip s.sinceEdge ∧ t.sinceEdge % 8 = 4 ∧
    t.phase = s.phase ∧ t.payloadCount = s.payloadCount + 1 ∧ t.errorCount = s.errorCount ∧
    t.rxGood = s.rxGood ∧ t.rxLastPublishTime = s.rxLastPublishTime ∧ t.registry = s.registry ∧
    t.faultCause = 1#2 ∧ t.output = []

/-- Rule R11 and the call structure of rule R221: an element is written only by an operation that enters the call
chain at or above its owner (`entryStage`), or, for the filter and the health monitor, by their own operations. And
a registry entry is created only from `DEV.UPDATE` up (rule R47). -/
def Obligations.OnlyTheOwnersWrite : Prop :=
  ∀ (i : Instr) (s t : State), exec i s = .next t →
    (t.smoothed ≠ s.smoothed → entryStage i ≤ 1 ∨ ∃ m, i = .envFilter m) ∧
    (t.decimCount ≠ s.decimCount → entryStage i ≤ 2) ∧
    (t.ookMax ≠ s.ookMax → entryStage i ≤ 3) ∧
    (t.lastChip ≠ s.lastChip ∨ t.sinceEdge ≠ s.sinceEdge → entryStage i ≤ 4) ∧
    (t.phase ≠ s.phase → entryStage i ≤ 5) ∧
    (t.frame ≠ s.frame → entryStage i ≤ 7) ∧
    (t.payloadCount ≠ s.payloadCount ∨ t.errorCount ≠ s.errorCount → entryStage i ≤ 8) ∧
    (t.registry ≠ s.registry → entryStage i ≤ 11) ∧
    ((∃ serial, memRead s.registry serial = none ∧ memRead t.registry serial ≠ none) → entryStage i ≤ 9) ∧
    (t.rxGood ≠ s.rxGood ∨ t.rxLastPublishTime ≠ s.rxLastPublishTime →
      entryStage i ≤ 8 ∨ (∃ now nowValid, i = .rxfail now nowValid) ∨ ∃ g clock, i = .rxhMark g clock) ∧
    (t.halted ≠ s.halted ∨ t.faultCause ≠ s.faultCause →
      entryStage i ≤ 8 ∨ ∃ now nowValid, i = .rxfail now nowValid) ∧
    t.input = s.input

/-- Rule R223 case (a): a `SAMPLE` step that completes no valid payload does not read its time inputs: any other
`now` and `now_valid` give the same step. -/
def Obligations.TimeIsReadOnlyByAValidPayload : Prop :=
  ∀ (s t : State) (m : Binary32) (now now' : Time) (nowValid nowValid' : Bool),
    exec (.sample m now nowValid) s = .next t →
    t.payloadCount = s.payloadCount ∨ t.errorCount ≠ s.errorCount →
    exec (.sample m now' nowValid') s = .next t

/-! ### The envelope stage -/

/-- Rule R90. -/
def Obligations.FilterUpdatesSmoothed : Prop :=
  ∀ (s : State) (m : Binary32), s.halted = false → exec (.envFilter m) s = .next
    { s with
      smoothed := fAdd (fMul 0x3F333333#32 s.smoothed) (fMul 0x3E99999A#32 m)
      output := [], selectedPoly := none }

/-- Rule R90 case (d): a NaN in the filter, or a NaN sample, makes `smoothed` a NaN, whatever its bits. -/
def Obligations.NaNStaysInTheFilter : Prop :=
  ∀ (s : State) (m : Binary32), s.halted = false → fIsNaN s.smoothed = true ∨ fIsNaN m = true →
    ∃ t, exec (.envFilter m) s = .next t ∧ fIsNaN t.smoothed = true

/-- Rule R90 case (e): the order of the operands of a sum or a product does not matter, but for the bits of a NaN,
which are free (log 8). -/
def Obligations.SumsAndProductsCommute : Prop :=
  ∀ a b : Binary32, (fIsNaN (fAdd a b) = false → fAdd a b = fAdd b a) ∧
    (fIsNaN (fMul a b) = false → fMul a b = fMul b a)

/-- Rule R91; the forwarded value is a copy of `smoothed`. -/
def Obligations.DecimatorForwardsEverySeventeenth : Prop :=
  ∀ (s : State) (now : Time) (nowValid : Bool), s.halted = false →
    (s.decimCount + 1 ≠ 17 → exec (.envDecim now nowValid) s = .next
      { s with decimCount := s.decimCount + 1, output := [], selectedPoly := none }) ∧
    (s.decimCount + 1 = 17 →
      exec (.envDecim now nowValid) s = exec (.peakForward s.smoothed now nowValid) { s with decimCount := 0 })

/-- Rule R223: a sample goes through the filter, then through the decimator; on the 16 steps of 17 that forward
nothing, only `smoothed` and `decim_count` change. -/
def Obligations.SampleIsFilterThenDecimator : Prop :=
  ∀ (s : State) (m : Binary32) (now : Time) (nowValid : Bool), s.halted = false →
    (s.decimCount + 1 ≠ 17 → exec (.sample m now nowValid) s = .next
      { s with
        smoothed := fAdd (fMul 0x3F333333#32 s.smoothed) (fMul 0x3E99999A#32 m)
        decimCount := s.decimCount + 1, output := [], selectedPoly := none }) ∧
    exec (.sample m now nowValid) s = exec (.envDecim now nowValid)
      { s with smoothed := fAdd (fMul 0x3F333333#32 s.smoothed) (fMul 0x3E99999A#32 m) }

/-- Rules R100 to R103: clamp, decay, raise, floor, threshold, and the chip handed on; with a clock the step is
carried out to its end. -/
def Obligations.PeakForwardDecidesTheChip : Prop :=
  ∀ (s : State) (v : Binary32) (now : Time) (nowValid : Bool), s.halted = false →
    let c := if fGt v 0x3F800000#32 then 0x3F800000#32 else v
    let decayed := fSub s.ookMax 0x38D1B717#32
    let raised := if fGt c decayed then c else decayed
    let peak := if fGt 0x3EAAAAAB#32 raised then 0x3EAAAAAB#32 else raised
    let chip := if fGt c (fMul peak 0x3F400000#32) then 1#8 else 0#8
    exec (.peakForward v now nowValid) s = exec (.syncChip chip now nowValid) { s with ookMax := peak } ∧
    ∃ t, exec (.peakForward v now true) s = .next t ∧ t.halted = false ∧ t.ookMax = peak ∧
      t.lastChip = chip.setWidth 1 ∧ t.smoothed = s.smoothed ∧ t.decimCount = s.decimCount

/-- The consequence the spec derives in rule R101 ("after the update `PEAK_FLOOR ≤ ook_max ≤ 1.0`, always, even when
`c` is a NaN"), as what every operation keeps, whatever is in the filter or is forwarded. -/
def Obligations.PeakStaysInRange : Prop :=
  ∀ (i : Instr) (s t : State), peakInRange s.ookMax → exec i s = .next t → peakInRange t.ookMax

/-- Rule R102, its sentence on the fixed floor: the threshold is never below 0.25, so a value that does not exceed
0.25 gives chip 0. -/
def Obligations.NothingBelowTheFloorIsAChip : Prop :=
  ∀ v ookMax : Binary32, peakInRange ookMax → fGt v 0x3E800000#32 = false →
    chipOf hardware (clampTop hardware v) (nextPeak hardware (clampTop hardware v) ookMax) = 0#8

/-- Rules R100 to R102 and the consequences rule R280 names: a NaN or −infinity in the filter gives chip 0, and
+infinity gives chip 1 with the peak at 1.0. -/
def Obligations.StickyValuesGiveAConstantChip : Prop :=
  ∀ v ookMax : Binary32, peakInRange ookMax →
    (fIsNaN v = true → chipOf hardware (clampTop hardware v) (nextPeak hardware (clampTop hardware v) ookMax) = 0#8) ∧
    chipOf hardware (clampTop hardware 0xFF800000#32)
      (nextPeak hardware (clampTop hardware 0xFF800000#32) ookMax) = 0#8 ∧
    nextPeak hardware (clampTop hardware 0x7F800000#32) ookMax = 0x3F800000#32 ∧
    chipOf hardware (clampTop hardware 0x7F800000#32)
      (nextPeak hardware (clampTop hardware 0x7F800000#32) ookMax) = 1#8

/-! ### The synchronizer -/

/-- Rules R110 to R113: the guard, the edge detection, the sampling. -/
def Obligations.SyncChipCountsAndSamples : Prop :=
  ∀ (s : State) (c : Byte) (now : Time) (nowValid : Bool), s.halted = false →
    let count := if c ≠ s.lastChip.setWidth 8 then 1 else s.sinceEdge + 1
    if c ≠ 0#8 ∧ c ≠ 1#8 then
      exec (.syncChip c now nowValid) s = .next { s with output := [], selectedPoly := none }
    else if count % 8 ≠ 4 then
      exec (.syncChip c now nowValid) s = .next
        { s with lastChip := c.setWidth 1, sinceEdge := count, output := [], selectedPoly := none }
    else
      exec (.syncChip c now nowValid) s =
        exec (.manStep c now nowValid) { s with lastChip := c.setWidth 1, sinceEdge := count }

/-- The run-length law the spec derives in rule R114: a run of `n` equal chips that starts with an edge, or at
reset, is sampled `(n + 4) / 8` times. -/
def Obligations.RunLengthLaw : Prop :=
  ∀ (c last : BitVec 1) (count n : Nat), c ≠ last ∨ count = 0 →
    ((runCounts c last count n).filter (isMidBit hardware)).length = (n + 4) / 8

/-! ### The Manchester decoder -/

/-- Rules R122, R124 and R127: in an A state nothing is emitted and the table's next state is taken; a malformed
mid-bit sample is ignored in every state. -/
def Obligations.ManStepInTheAStates : Prop :=
  ∀ (s : State) (b : Byte) (now : Time) (nowValid : Bool), s.halted = false →
    (b ≠ 0#8 ∧ b ≠ 1#8 →
      exec (.manStep b now nowValid) s = .next { s with output := [], selectedPoly := none }) ∧
    (s.phase = .lowA → b = 0#8 →
      exec (.manStep b now nowValid) s = .next { s with phase := .lowA, output := [], selectedPoly := none }) ∧
    (s.phase = .lowA → b = 1#8 →
      exec (.manStep b now nowValid) s = .next { s with phase := .highB, output := [], selectedPoly := none }) ∧
    (s.phase = .highA → b = 1#8 →
      exec (.manStep b now nowValid) s = .next { s with phase := .highA, output := [], selectedPoly := none }) ∧
    (s.phase = .highA → b = 0#8 →
      exec (.manStep b now nowValid) s = .next { s with phase := .lowB, output := [], selectedPoly := none })

/-- Rules R123, R125 and R126: in a B state the pending bit is emitted first, by `FRM.SHIFT`; the transition follows
unless a clock fault has halted the block on the way. -/
def Obligations.ManStepInTheBStates : Prop :=
  ∀ (s : State) (b : Byte) (now : Time) (nowValid : Bool), s.halted = false → b = 0#8 ∨ b = 1#8 →
    let next := if b = 1#8 then Phase.highA else Phase.lowA
    (s.phase = .lowB → ∃ t, exec (.frmShift 0#8 now nowValid) s = .next t ∧
      exec (.manStep b now nowValid) s = .next (if t.halted then t else { t with phase := next })) ∧
    (s.phase = .highB → ∃ t, exec (.frmShift 1#8 now nowValid) s = .next t ∧
      exec (.manStep b now nowValid) s = .next (if t.halted then t else { t with phase := next }))

/-- Rules R65 and R121 to R124: the four rows of the A states, each where its selector is the machine's; where it is
not, the row is not selected and nothing happens, which is the model's reading (log 6). -/
def Obligations.ManRowsOfTheAStates : Prop :=
  ∀ s : State, s.halted = false →
    exec .manLowA0 s = .next { s with output := [], selectedPoly := none } ∧
    exec .manLowA1 s = .next
      { s with phase := if s.phase = .lowA then .highB else s.phase, output := [], selectedPoly := none } ∧
    exec .manHighA0 s = .next
      { s with phase := if s.phase = .highA then .lowB else s.phase, output := [], selectedPoly := none } ∧
    exec .manHighA1 s = .next { s with output := [], selectedPoly := none }

/-- Rules R65, R123 and R125: each of the four rows of the B states is `MAN.STEP` of its sample where its selector is
the machine's, and answers a next state in the phase of the table; where it is not, nothing happens (log 6). -/
def Obligations.ManRowsOfTheBStates : Prop :=
  ∀ (s : State) (now : Time) (nowValid : Bool), s.halted = false →
    (s.phase = .lowB →
      exec (.manLowB0 now nowValid) s = exec (.manStep 0#8 now nowValid) s ∧
      exec (.manLowB1 now nowValid) s = exec (.manStep 1#8 now nowValid) s ∧
      (∃ t, exec (.manLowB0 now true) s = .next t ∧ t.phase = .lowA ∧ t.halted = false) ∧
      (∃ t, exec (.manLowB1 now true) s = .next t ∧ t.phase = .highA ∧ t.halted = false)) ∧
    (s.phase = .highB →
      exec (.manHighB0 now nowValid) s = exec (.manStep 0#8 now nowValid) s ∧
      exec (.manHighB1 now nowValid) s = exec (.manStep 1#8 now nowValid) s ∧
      (∃ t, exec (.manHighB0 now true) s = .next t ∧ t.phase = .lowA ∧ t.halted = false) ∧
      (∃ t, exec (.manHighB1 now true) s = .next t ∧ t.phase = .highA ∧ t.halted = false)) ∧
    (s.phase ≠ .lowB →
      exec (.manLowB0 now nowValid) s = .next { s with output := [], selectedPoly := none } ∧
      exec (.manLowB1 now nowValid) s = .next { s with output := [], selectedPoly := none }) ∧
    (s.phase ≠ .highB →
      exec (.manHighB0 now nowValid) s = .next { s with output := [], selectedPoly := none } ∧
      exec (.manHighB1 now nowValid) s = .next { s with output := [], selectedPoly := none })

/-- What the spec derives in rule R128: mid-bit samples of one level take every state to the A state of that level
in at most two evaluations, where it stays. -/
def Obligations.ConstantLevelSettles : Prop :=
  ∀ (s : State) (now : Time), s.halted = false →
    (∃ t u v, exec (.manStep 0#8 now true) s = .next t ∧ exec (.manStep 0#8 now true) t = .next u ∧ u.phase = .lowA ∧
      exec (.manStep 0#8 now true) u = .next v ∧ v.phase = .lowA ∧ v.frame = u.frame) ∧
    (∃ t u v, exec (.manStep 1#8 now true) s = .next t ∧ exec (.manStep 1#8 now true) t = .next u ∧ u.phase = .highA ∧
      exec (.manStep 1#8 now true) u = .next v ∧ v.phase = .highA ∧ v.frame = u.frame)

/-- What the spec derives in rules R129 and R130: from LowA, bits that begin with a 1, each sent as its two half-bit
cells, come out as sent once one more mid-bit sample follows, of either level. -/
def Obligations.ManchesterRoundTrip : Prop :=
  ∀ (bits : List Bool) (last : Bool),
    emittedBits .lowA ((true :: bits).flatMap halfCells ++ [last]) =
      (true :: bits).map fun b => if b then 1#8 else 0#8

/-- What the spec derives in rule R63: a payload sent from reset as the chips of its half-bit cells is dispatched,
whole and once, with the fourth further chip of either level and not with the third; the one dispatch is `CRC.CHECK`
of that payload. -/
def Obligations.ChipsOfAPayloadReachTheValidator : Prop :=
  ∀ (p : Payload) (clock : Clock) (level : Bool), syncOf p = 0xFFFE#16 →
    let before := runTrace (traceFrame p clock ++ traceChips (chipLevel level) 3 clock) State.reset
    before.payloadCount = 0#32 ∧
    ∃ t after, exec (.crcCheck p clock.now clock.valid) before = .next t ∧
      exec (.syncChip (chipLevel level) clock.now clock.valid) before = .next after ∧
      after.payloadCount = 1#32 ∧ after.errorCount = t.errorCount ∧ after.registry = t.registry ∧
      after.rxGood = t.rxGood ∧ after.rxLastPublishTime = t.rxLastPublishTime ∧ after.output = t.output ∧
      after.frame = (if t.halted then p else 0#64) ∧ after.halted = t.halted ∧ after.faultCause = t.faultCause

/-! ### The frame assembler -/

/-- Rule R140: the guard; else the bit enters at the bottom, the top bit is lost, and the detector runs. -/
def Obligations.ShiftInsertsTheBit : Prop :=
  ∀ (s : State) (d : Byte) (now : Time) (nowValid : Bool), s.halted = false →
    (d ≠ 0#8 ∧ d ≠ 1#8 →
      exec (.frmShift d now nowValid) s = .next { s with output := [], selectedPoly := none }) ∧
    (d = 0#8 ∨ d = 1#8 →
      exec (.frmShift d now nowValid) s =
        exec (.frmDetect now nowValid) { s with frame := s.frame <<< 1 ||| d.setWidth 64 }) ∧
    (d = 0#8 ∨ d = 1#8 → syncOf (s.frame <<< 1 ||| d.setWidth 64) ≠ 0xFFFE#16 →
      exec (.frmShift d now nowValid) s = .next
        { s with frame := s.frame <<< 1 ||| d.setWidth 64, output := [], selectedPoly := none })

/-- What the spec derives in rules R44 and R141: after 64 insertions bit `k` of the register is the bit inserted `k`
before the newest, whatever it held before. -/
def Obligations.RegisterHoldsTheLast64Bits : Prop :=
  ∀ (frame : BitVec 64) (bits : List Bool) (k : Nat), bits.length = 64 → k < 64 →
    (bits.foldl (fun f b => shiftIn f (if b then 1#8 else 0#8)) frame).getLsbD k = bits.reverse.getD k false

/-- Rules R67 and R142: no match, nothing happens; on a match the register is handed over whole and then cleared,
whether the payload is valid or not; a clock fault leaves it uncleared. -/
def Obligations.DetectHandsOverThenClears : Prop :=
  ∀ (s : State) (now : Time) (nowValid : Bool), s.halted = false →
    (s.frame &&& 0xFFFF000000000000#64 ≠ 0xFFFE000000000000#64 →
      exec (.frmDetect now nowValid) s = .next { s with output := [], selectedPoly := none }) ∧
    (s.frame &&& 0xFFFF000000000000#64 = 0xFFFE000000000000#64 →
      ∃ t, exec (.crcCheck s.frame now nowValid) s = .next t ∧
        exec (.frmDetect now nowValid) s = .next (if t.halted then t else { t with frame := 0#64 }))

/-! ### The payload validator -/

/-- Rule R155 (and R246, R252): the three verdicts. A payload that fails the CRC is counted and reported whether or
not the clock can be read; a valid one without a clock halts the block; a valid one with a clock marks the receiver
good and then updates the device, and the two output lists follow one another. -/
def Obligations.CrcCheckVerdicts : Prop :=
  ∀ (s : State) (p : Payload) (now : Time) (nowValid : Bool), s.halted = false →
    let poly := if brandOf p = 2#4 ∨ brandOf p = 10#4 then 0x18050#17 else 0x18005#17
    let remainder := divisionLoop poly 32 (nonsync p)
    (remainder ≠ 0#48 → exec (.crcCheck p now nowValid) s = .next
      { s with
        payloadCount := s.payloadCount + 1, errorCount := s.errorCount + 1, selectedPoly := some poly
        output := [.crcFail p (s.errorCount + 1) (s.payloadCount + 1)] }) ∧
    (remainder = 0#48 → nowValid = false → exec (.crcCheck p now nowValid) s = .next
      { s with
        payloadCount := s.payloadCount + 1, selectedPoly := some poly, output := []
        halted := true, faultCause := 1#2 }) ∧
    (remainder = 0#48 → nowValid = true → ∃ marked updated,
      exec (.rxhMark true ⟨now, true⟩) s = .next marked ∧
      exec (.devUpdate (serialOf p) (statusOf p) ⟨now, true⟩) marked = .next updated ∧
      exec (.crcCheck p now nowValid) s = .next
        { updated with
          payloadCount := s.payloadCount + 1, selectedPoly := some poly
          output := marked.output ++ updated.output })

/-- Rules R66 and R151: brands 2 and 10 select the 2GIG polynomial and all other brands the default one. That a row
whose selector does not match does nothing, and the field that shows the selection, are the model's (log 6). -/
def Obligations.BrandSelectsThePolynomial : Prop :=
  ∀ (s : State) (brand : BitVec 4), s.halted = false →
    if brand = 2#4 ∨ brand = 10#4 then
      exec (.crcPoly2gig brand) s = .next { s with output := [], selectedPoly := some 0x18050#17 } ∧
      exec (.crcPolyDefault brand) s = .next { s with output := [], selectedPoly := none }
    else
      exec (.crcPoly2gig brand) s = .next { s with output := [], selectedPoly := none } ∧
      exec (.crcPolyDefault brand) s = .next { s with output := [], selectedPoly := some 0x18005#17 }

/-- Rule R153: after the loop the sum is below `2 ^ 16`, for every 17-bit polynomial and every dividend. -/
def Obligations.RemainderHasSixteenBits : Prop :=
  ∀ (poly : Poly) (dividend : BitVec 48), poly.getLsbD 16 = true →
    (divisionLoop poly 32 dividend).toNat < 2 ^ 16

/-- Rule R85: the check field that `CRC16` gives makes every payload valid, and its fields are those it was made
from. -/
def Obligations.FrameWordIsValid : Prop :=
  ∀ (brand : BitVec 4) (serial : Serial) (status : Byte),
    let p := frameWord hardware brand serial status
    crcValid hardware p = true ∧ syncOf p = 0xFFFE#16 ∧ brandOf p = brand ∧ serialOf p = serial ∧ statusOf p = status

/-- What the spec derives in rule R156 (a): flipping any one of the 48 non-sync bits of a valid payload, the brand's
class unchanged, makes it invalid. -/
def Obligations.SingleBitFlipIsDetected : Prop :=
  ∀ (p : Payload) (k : Nat), k < 48 → crcValid hardware p = true →
    let flipped := p ^^^ (1#64 <<< k)
    polyOf hardware (brandOf flipped) = polyOf hardware (brandOf p) → crcValid hardware flipped = false

/-- What the spec derives in rule R156 (b): the 2GIG polynomial is divisible by `x^4`, so every payload valid under
it ends in four zeros. -/
def Obligations.ValidTwoGigPayloadsEndInZeros : Prop :=
  ∀ p : Payload, brandOf p = 2#4 ∨ brandOf p = 10#4 → crcValid hardware p = true → p &&& 0xF#64 = 0#64

/-- Rule R19: `error_count ≤ payload_count` holds until `payload_count` wraps. -/
def Obligations.ErrorsNeverExceedPayloads : Prop :=
  ∀ (i : Instr) (s t : State), exec i s = .next t → s.payloadCount ≠ 0xFFFFFFFF#32 →
    s.errorCount ≤ s.payloadCount → t.errorCount ≤ t.payloadCount

/-! ### The RX health monitor -/

/-- Rule R201. -/
def Obligations.RxMarkPublishesOnChangeOrAfterAMinute : Prop :=
  ∀ (s : State) (g : Bool) (now : Time) (nowValid : Bool), s.halted = false →
    exec (.rxhMark g ⟨now, nowValid⟩) s = .next
      (if g ≠ s.rxGood ∨ 60#64 < now - s.rxLastPublishTime then
        { s with
          rxGood := g, rxLastPublishTime := now, selectedPoly := none
          output := [.publish .rxStatus 0#20 (if g then .ok else .failed)] }
      else { s with rxGood := g, output := [], selectedPoly := none })

/-- Rule R203: on a halted block `RXFAIL` does nothing; with a clock it marks the receiver bad; without one it halts
the block with cause 2 and changes nothing else. -/
def Obligations.RxFailMarksBadOrHalts : Prop :=
  (∀ (s : State) (now : Time) (nowValid : Bool), s.halted = true →
    exec (.rxfail now nowValid) s = .next { s with output := [], selectedPoly := none }) ∧
  ∀ (s : State) (now : Time), s.halted = false →
    exec (.rxfail now true) s = .next
      (if s.rxGood = true ∨ 60#64 < now - s.rxLastPublishTime then
        { s with
          rxGood := false, rxLastPublishTime := now, selectedPoly := none
          output := [.publish .rxStatus 0#20 .failed] }
      else { s with rxGood := false, output := [], selectedPoly := none }) ∧
    exec (.rxfail now false) s = .next
      { s with halted := true, faultCause := 2#2, output := [], selectedPoly := none }

/-! ### The device registry and the sweep -/

/-- Rules R165 to R172: the record that is stored, made from the present one or a fresh one, before the notification
gate runs. -/
def Obligations.UpdateStoresThenNotifies : Prop :=
  ∀ (s : State) (serial : Serial) (status : Byte) (now : Time) (nowValid : Bool), s.halted = false →
    let fresh : DeviceState := ⟨0xFF#8, false, false, false, false, 0x00#8, 0#64, 0#64⟩
    let e := (memRead s.registry serial).getD fresh
    let alarmState := status &&& 0xB0#8
    let baseline := if alarmState < e.minAlarmStateSeen then alarmState else e.minAlarmStateSeen
    let stored : DeviceState :=
      { minAlarmStateSeen := baseline
        alarm := decide (alarmState > baseline)
        tamper := decide (status &&& 0x40#8 = 0#8)
        batteryLow := decide (status &&& 0x08#8 = 0#8)
        timeout := false
        lastRawState := e.lastRawState
        lastUpdateTime := e.lastUpdateTime
        lastAlarmTime := if alarmState > baseline then now else e.lastAlarmTime }
    exec (.devUpdate serial status ⟨now, nowValid⟩) s =
      exec (.devNotify serial status ⟨now, nowValid⟩) { s with registry := memWrite s.registry serial stored } ∧
    ∃ t e', exec (.devUpdate serial status ⟨now, nowValid⟩) s = .next t ∧ memRead t.registry serial = some e' ∧
      e'.minAlarmStateSeen = stored.minAlarmStateSeen ∧ e'.alarm = stored.alarm ∧ e'.tamper = stored.tamper ∧
      e'.batteryLow = stored.batteryLow ∧ e'.timeout = false ∧ e'.lastAlarmTime = stored.lastAlarmTime

/-- Rules R172 and R223 case (d): an update touches the one entry and, of every other entry, the timeout flag alone,
which it can only set; it creates no other entry. -/
def Obligations.UpdateTouchesOneEntry : Prop :=
  ∀ (s t : State) (serial other : Serial) (status : Byte) (now : Time) (nowValid : Bool),
    exec (.devUpdate serial status ⟨now, nowValid⟩) s = .next t → other ≠ serial →
    (memRead s.registry other = none → memRead t.registry other = none) ∧
    ∀ e, memRead s.registry other = some e →
      memRead t.registry other = some e ∨
      (memRead t.registry other = some { e with timeout := true } ∧ 27000#64 < now - e.lastUpdateTime)

/-- Rules R174 to R177: a present device whose gate does not pass leaves everything as it was; one whose gate passes
is published, its bookkeeping refreshed, the sweep run and the listing handed out, in this order. -/
def Obligations.NotifyGateDecides : Prop :=
  ∀ (s : State) (serial : Serial) (status : Byte) (now : Time) (nowValid : Bool) (e : DeviceState),
    s.halted = false → memRead s.registry serial = some e →
    (¬ (status ≠ e.lastRawState ∨ 60#64 < now - e.lastUpdateTime) →
      exec (.devNotify serial status ⟨now, nowValid⟩) s = .next { s with output := [], selectedPoly := none }) ∧
    (status ≠ e.lastRawState ∨ 60#64 < now - e.lastUpdateTime →
      ∃ swept,
        exec (.sweep ⟨now, nowValid⟩) { s with
          registry := memWrite s.registry serial { e with lastUpdateTime := now, lastRawState := status } } =
            .next swept ∧
        exec (.devNotify serial status ⟨now, nowValid⟩) s = .next
          { swept with
            output :=
              [.publish .alarm serial (if e.alarm then .alarm else .ok),
               .publish .status serial (statusPayload e.tamper e.batteryLow)] ++
              swept.output ++ [.deviceList serial (listing swept.registry)] })

/-- `DEV.NOTIFY` driven on its own for a serial with no entry: the record it reads is free (log 7), and whatever it
is, the operation goes on and the block does not halt. The model's choice. No entry is created, of this serial or of
another: "Creation happens only at the `MemWrite`" of `DEV.UPDATE` (rule R47). -/
def Obligations.NotifyOfAnAbsentSerialGoesOn : Prop :=
  ∀ (s : State) (serial : Serial) (status : Byte) (now : Time) (nowValid : Bool),
    s.halted = false → memRead s.registry serial = none →
    ∃ t, exec (.devNotify serial status ⟨now, nowValid⟩) s = .next t ∧ t.halted = false ∧
      ∀ other, memRead s.registry other = none → memRead t.registry other = none

/-- Rules R190, R191 and R195: every present device silent for more than 27000 s and not yet flagged is flagged and
published, in ascending order of serial, and nothing else changes. -/
def Obligations.SweepFlagsTheSilentDevices : Prop :=
  ∀ (s : State) (now : Time) (nowValid : Bool), s.halted = false → s.registry.wf →
    exec (.sweep ⟨now, nowValid⟩) s = .next
      { s with
        registry := s.registry.map fun entry => (entry.1, flagged now entry.2)
        selectedPoly := none
        output := (s.registry.filter fun entry =>
            decide (27000#64 < now - entry.2.lastUpdateTime) && !entry.2.timeout).map fun entry =>
          .publish .status entry.1 .timeout }

/-- Rule R195: which entries a sweep flags, and which events it emits, do not depend on the order of its visits. -/
def Obligations.SweepOrderDoesNotMatter : Prop :=
  ∀ (cfg other : Config) (now : Time) (s : State), s.registry.wf →
    (∀ l, (cfg.sweepOrder l).Perm l) → (∀ l, (other.sweepOrder l).Perm l) →
    cfg.sensorTimeout = other.sensorTimeout → cfg.timeWidth = other.timeWidth →
    (sweepAll cfg now s).registry = (sweepAll other now s).registry ∧
    (sweepAll cfg now s).output.Perm (sweepAll other now s).output

/-- Rule R28 item 2, and what the spec derives in rule R193: a device that an update has just notified is not timed
out, and its bookkeeping is that of the update, even after the sweep of the same step. -/
def Obligations.NotifiedDeviceIsNotTimedOut : Prop :=
  ∀ (s t : State) (serial : Serial) (status : Byte) (now : Time) (nowValid : Bool),
    s.halted = false → exec (.devUpdate serial status ⟨now, nowValid⟩) s = .next t → t.output ≠ [] →
    ∃ e, memRead t.registry serial = some e ∧ e.timeout = false ∧ e.lastUpdateTime = now ∧ e.lastRawState = status

/-- What the spec derives in rule R178: of two equal status bytes, the first of them notified at `t₁`, the second is
notified if and only if more than 60 s have passed; a different byte always is. -/
def Obligations.NotificationDedup : Prop :=
  ∀ (s t u : State) (serial : Serial) (first second : Byte) (t₁ t₂ : Time) (v₁ v₂ : Bool),
    s.halted = false → exec (.devUpdate serial first ⟨t₁, v₁⟩) s = .next t → t.output ≠ [] →
    exec (.devUpdate serial second ⟨t₂, v₂⟩) t = .next u →
    (u.output ≠ [] ↔ (second ≠ first ∨ 60#64 < t₂ - t₁))

/-- Rules R174 case (c) and R282: a first sighting is notified whatever its byte once `now` is past 60; at or before
60 it is notified unless the byte is 0, and even then its entry is stored. -/
def Obligations.FirstSightingNearTheEpoch : Prop :=
  ∀ (s : State) (serial : Serial) (status : Byte) (now : Time) (nowValid : Bool),
    s.halted = false → memRead s.registry serial = none →
    ∃ t, exec (.devUpdate serial status ⟨now, nowValid⟩) s = .next t ∧ (memRead t.registry serial).isSome ∧
      (t.output ≠ [] ↔ (60#64 < now ∨ status ≠ 0x00#8))

/-- What the spec derives in rule R173 (b): with the baseline settled at `B`, an update sets `alarm` exactly where the
masked bits exceed `B`; on the first sighting `alarm` is false (rule R169). -/
def Obligations.AlarmEdge : Prop :=
  ∀ (s : State) (serial : Serial) (status : Byte) (now : Time) (nowValid : Bool), s.halted = false →
    ∃ t e', exec (.devUpdate serial status ⟨now, nowValid⟩) s = .next t ∧ memRead t.registry serial = some e' ∧
      (memRead s.registry serial = none → e'.alarm = false) ∧
      (∀ e, memRead s.registry serial = some e →
        (e'.alarm = true ↔ e.minAlarmStateSeen < status &&& 0xB0#8) ∧
        e'.minAlarmStateSeen ≤ e.minAlarmStateSeen ∧ e'.minAlarmStateSeen ≤ status &&& 0xB0#8)

/-- Rule R64: a record's packing loses nothing. -/
def Obligations.RecordPackingRoundTrip : Prop :=
  ∀ (e : DeviceState) (bits : BitVec 148), DeviceState.unpack e.pack = e ∧ (DeviceState.unpack bits).pack = bits

/-! ### The events -/

/-- Rules R78 and R80: every publish event of every operation has a payload legal with its kind, and serial 0 for
`RX_STATUS`. -/
def Obligations.EveryPublishEventIsLegal : Prop :=
  ∀ (i : Instr) (s t : State), exec i s = .next t → ∀ e ∈ t.output, e.legal

/-- What the spec derives in rule R205: what a `SAMPLE` step hands out, in order: nothing, or a CRC failure alone,
or at most one `RX_STATUS` and then, if the gate passes, `ALARM`, `STATUS`, the timeouts in ascending order of
serial, and the listing. -/
def Obligations.SampleEventsInOrder : Prop :=
  ∀ (s t : State) (m : Binary32) (now : Time) (nowValid : Bool),
    s.registry.wf → exec (.sample m now nowValid) s = .next t →
    t.output = [] ∨ (∃ p errors payloads, t.output = [.crcFail p errors payloads]) ∨
    ∃ rx, (rx = [] ∨ rx = [Event.publish .rxStatus 0#20 .ok]) ∧
      (t.output = rx ∨
       ∃ (d : Byte) (serial : Serial) (alarmText statusText : PubPayload) (timeouts : List Serial) (rows : List ListingRow),
        pendingBit s.phase = some d ∧ serial = serialOf (shiftIn s.frame d) ∧
        timeouts.Pairwise (· < ·) ∧ serial ∉ timeouts ∧
        t.output = rx ++ [.publish .alarm serial alarmText, .publish .status serial statusText] ++
          timeouts.map (fun x => .publish .status x .timeout) ++ [.deviceList serial rows])

/-! ### The configuration and the ports -/

/-- Rule R7: the values this hardware takes satisfy the constraints a model may assume of them, and the two derived
constants have the words of the table. -/
def Obligations.HardwareValuesAreAllowed : Prop :=
  hardware.Allowed ∧ hardware.oneMinusAlpha = 0x3E99999A#32 ∧ hardware.peakFloor = 0x3EAAAAAB#32

/-- Rules R72, R86 and R252: `rst` gives the reset and drops the `op`; else the code on `op` is presented. -/
def Obligations.PortsPresentTheOperation : Prop :=
  ∀ (op : BitVec 2) (sample : Binary32) (now : Time) (nowValid : Bool),
    InputPorts.operation ⟨true, op, sample, now, nowValid⟩ = .reset ∧
    InputPorts.operation ⟨false, 0#2, sample, now, nowValid⟩ = .idle ∧
    InputPorts.operation ⟨false, 1#2, sample, now, nowValid⟩ = .sample sample now nowValid ∧
    InputPorts.operation ⟨false, 2#2, sample, now, nowValid⟩ = .rxfail now nowValid ∧
    InputPorts.operation ⟨false, 3#2, sample, now, nowValid⟩ = .reset
end

