-- ==== Sys2Proof/Laws/Decode.lean ====
section
/-! SUPPORT. The operation word and its fields determine one another. -/

namespace Sys2Proof.Laws

open Sys2Proof

/-- The fields of a packed word are those it was packed from. -/
@[simp] theorem unpackWord_packWord (f : OpFields) : unpackWord (packWord f) = f := by
  cases f with
  | mk sel now arg form val =>
    simp only [unpackWord, packWord, OpFields.mk.injEq]
    refine ⟨?_, ?_, ?_, ?_, ?_⟩ <;>
      (refine BitVec.eq_of_getLsbD_eq fun i hi => ?_
       simp only [BitVec.getLsbD_extractLsb', BitVec.getLsbD_append, hi, decide_true, Bool.true_and]
       split_ifs <;> first | omega | exact congrArg _ (by omega))

/-- A word is that of its fields: its 176 bits are all in one field or another. -/
@[simp] theorem packWord_unpackWord (w : OpWord) : packWord (unpackWord w) = w := by
  refine BitVec.eq_of_getLsbD_eq fun i hi => ?_
  simp only [packWord, unpackWord, BitVec.getLsbD_append, BitVec.getLsbD_extractLsb']
  split_ifs <;>
    (rw [decide_eq_true (by omega), Bool.true_and]
     exact congrArg _ (by omega))

end Sys2Proof.Laws
end

