-- ==== Sys2Proof/Laws/State.lean ====
section
/-! SUPPORT. The small lemmas of the state: every field after every named update, how a call ends, and how an
operation is carried out on a halted and on a running block. Each is true by unfolding once. -/

namespace Sys2Proof.Machine

@[simp] theorem startStep_smoothed (s : State) : (s.startStep).smoothed = s.smoothed := rfl
@[simp] theorem startStep_decimCount (s : State) : (s.startStep).decimCount = s.decimCount := rfl
@[simp] theorem startStep_ookMax (s : State) : (s.startStep).ookMax = s.ookMax := rfl
@[simp] theorem startStep_lastChip (s : State) : (s.startStep).lastChip = s.lastChip := rfl
@[simp] theorem startStep_sinceEdge (s : State) : (s.startStep).sinceEdge = s.sinceEdge := rfl
@[simp] theorem startStep_phase (s : State) : (s.startStep).phase = s.phase := rfl
@[simp] theorem startStep_frame (s : State) : (s.startStep).frame = s.frame := rfl
@[simp] theorem startStep_payloadCount (s : State) : (s.startStep).payloadCount = s.payloadCount := rfl
@[simp] theorem startStep_errorCount (s : State) : (s.startStep).errorCount = s.errorCount := rfl
@[simp] theorem startStep_registry (s : State) : (s.startStep).registry = s.registry := rfl
@[simp] theorem startStep_rxGood (s : State) : (s.startStep).rxGood = s.rxGood := rfl
@[simp] theorem startStep_rxLastPublishTime (s : State) : (s.startStep).rxLastPublishTime = s.rxLastPublishTime := rfl
@[simp] theorem startStep_halted (s : State) : (s.startStep).halted = s.halted := rfl
@[simp] theorem startStep_faultCause (s : State) : (s.startStep).faultCause = s.faultCause := rfl
@[simp] theorem startStep_input (s : State) : (s.startStep).input = s.input := rfl
@[simp] theorem startStep_output (s : State) : (s.startStep).output = [] := rfl
@[simp] theorem startStep_selectedPoly (s : State) : (s.startStep).selectedPoly = none := rfl
@[simp] theorem startStep_freeReads (s : State) : (s.startStep).freeReads = s.freeReads := rfl

@[simp] theorem emit_smoothed (s : State) (e : Event) : (s.emit e).smoothed = s.smoothed := rfl
@[simp] theorem emit_decimCount (s : State) (e : Event) : (s.emit e).decimCount = s.decimCount := rfl
@[simp] theorem emit_ookMax (s : State) (e : Event) : (s.emit e).ookMax = s.ookMax := rfl
@[simp] theorem emit_lastChip (s : State) (e : Event) : (s.emit e).lastChip = s.lastChip := rfl
@[simp] theorem emit_sinceEdge (s : State) (e : Event) : (s.emit e).sinceEdge = s.sinceEdge := rfl
@[simp] theorem emit_phase (s : State) (e : Event) : (s.emit e).phase = s.phase := rfl
@[simp] theorem emit_frame (s : State) (e : Event) : (s.emit e).frame = s.frame := rfl
@[simp] theorem emit_payloadCount (s : State) (e : Event) : (s.emit e).payloadCount = s.payloadCount := rfl
@[simp] theorem emit_errorCount (s : State) (e : Event) : (s.emit e).errorCount = s.errorCount := rfl
@[simp] theorem emit_registry (s : State) (e : Event) : (s.emit e).registry = s.registry := rfl
@[simp] theorem emit_rxGood (s : State) (e : Event) : (s.emit e).rxGood = s.rxGood := rfl
@[simp] theorem emit_rxLastPublishTime (s : State) (e : Event) : (s.emit e).rxLastPublishTime = s.rxLastPublishTime := rfl
@[simp] theorem emit_halted (s : State) (e : Event) : (s.emit e).halted = s.halted := rfl
@[simp] theorem emit_faultCause (s : State) (e : Event) : (s.emit e).faultCause = s.faultCause := rfl
@[simp] theorem emit_input (s : State) (e : Event) : (s.emit e).input = s.input := rfl
@[simp] theorem emit_output (s : State) (e : Event) : (s.emit e).output = s.output ++ [e] := rfl
@[simp] theorem emit_selectedPoly (s : State) (e : Event) : (s.emit e).selectedPoly = s.selectedPoly := rfl
@[simp] theorem emit_freeReads (s : State) (e : Event) : (s.emit e).freeReads = s.freeReads := rfl

@[simp] theorem resetBlock_smoothed (cfg : Config) (s : State) : (resetBlock cfg s).smoothed = 0#32 := rfl
@[simp] theorem resetBlock_decimCount (cfg : Config) (s : State) : (resetBlock cfg s).decimCount = 0 := rfl
@[simp] theorem resetBlock_ookMax (cfg : Config) (s : State) : (resetBlock cfg s).ookMax = cfg.peakFloor := rfl
@[simp] theorem resetBlock_lastChip (cfg : Config) (s : State) : (resetBlock cfg s).lastChip = 0#1 := rfl
@[simp] theorem resetBlock_sinceEdge (cfg : Config) (s : State) : (resetBlock cfg s).sinceEdge = 0 := rfl
@[simp] theorem resetBlock_phase (cfg : Config) (s : State) : (resetBlock cfg s).phase = .lowA := rfl
@[simp] theorem resetBlock_frame (cfg : Config) (s : State) : (resetBlock cfg s).frame = 0#64 := rfl
@[simp] theorem resetBlock_payloadCount (cfg : Config) (s : State) : (resetBlock cfg s).payloadCount = 0#32 := rfl
@[simp] theorem resetBlock_errorCount (cfg : Config) (s : State) : (resetBlock cfg s).errorCount = 0#32 := rfl
@[simp] theorem resetBlock_registry (cfg : Config) (s : State) : (resetBlock cfg s).registry = [] := rfl
@[simp] theorem resetBlock_rxGood (cfg : Config) (s : State) : (resetBlock cfg s).rxGood = false := rfl
@[simp] theorem resetBlock_rxLastPublishTime (cfg : Config) (s : State) : (resetBlock cfg s).rxLastPublishTime = cfg.epoch := rfl
@[simp] theorem resetBlock_halted (cfg : Config) (s : State) : (resetBlock cfg s).halted = false := rfl
@[simp] theorem resetBlock_faultCause (cfg : Config) (s : State) : (resetBlock cfg s).faultCause = 0#2 := rfl
@[simp] theorem resetBlock_input (cfg : Config) (s : State) : (resetBlock cfg s).input = s.input := rfl
@[simp] theorem resetBlock_output (cfg : Config) (s : State) : (resetBlock cfg s).output = s.output := rfl
@[simp] theorem resetBlock_selectedPoly (cfg : Config) (s : State) : (resetBlock cfg s).selectedPoly = s.selectedPoly := rfl
@[simp] theorem resetBlock_freeReads (cfg : Config) (s : State) : (resetBlock cfg s).freeReads = s.freeReads := rfl

@[simp] theorem raiseClockFault_smoothed (cause : BitVec 2) (s : State) : ((raiseClockFault cause s).state).smoothed = s.smoothed := rfl
@[simp] theorem raiseClockFault_decimCount (cause : BitVec 2) (s : State) : ((raiseClockFault cause s).state).decimCount = s.decimCount := rfl
@[simp] theorem raiseClockFault_ookMax (cause : BitVec 2) (s : State) : ((raiseClockFault cause s).state).ookMax = s.ookMax := rfl
@[simp] theorem raiseClockFault_lastChip (cause : BitVec 2) (s : State) : ((raiseClockFault cause s).state).lastChip = s.lastChip := rfl
@[simp] theorem raiseClockFault_sinceEdge (cause : BitVec 2) (s : State) : ((raiseClockFault cause s).state).sinceEdge = s.sinceEdge := rfl
@[simp] theorem raiseClockFault_phase (cause : BitVec 2) (s : State) : ((raiseClockFault cause s).state).phase = s.phase := rfl
@[simp] theorem raiseClockFault_frame (cause : BitVec 2) (s : State) : ((raiseClockFault cause s).state).frame = s.frame := rfl
@[simp] theorem raiseClockFault_payloadCount (cause : BitVec 2) (s : State) : ((raiseClockFault cause s).state).payloadCount = s.payloadCount := rfl
@[simp] theorem raiseClockFault_errorCount (cause : BitVec 2) (s : State) : ((raiseClockFault cause s).state).errorCount = s.errorCount := rfl
@[simp] theorem raiseClockFault_registry (cause : BitVec 2) (s : State) : ((raiseClockFault cause s).state).registry = s.registry := rfl
@[simp] theorem raiseClockFault_rxGood (cause : BitVec 2) (s : State) : ((raiseClockFault cause s).state).rxGood = s.rxGood := rfl
@[simp] theorem raiseClockFault_rxLastPublishTime (cause : BitVec 2) (s : State) : ((raiseClockFault cause s).state).rxLastPublishTime = s.rxLastPublishTime := rfl
@[simp] theorem raiseClockFault_halted (cause : BitVec 2) (s : State) : ((raiseClockFault cause s).state).halted = true := rfl
@[simp] theorem raiseClockFault_faultCause (cause : BitVec 2) (s : State) : ((raiseClockFault cause s).state).faultCause = cause := rfl
@[simp] theorem raiseClockFault_input (cause : BitVec 2) (s : State) : ((raiseClockFault cause s).state).input = s.input := rfl
@[simp] theorem raiseClockFault_output (cause : BitVec 2) (s : State) : ((raiseClockFault cause s).state).output = s.output := rfl
@[simp] theorem raiseClockFault_selectedPoly (cause : BitVec 2) (s : State) : ((raiseClockFault cause s).state).selectedPoly = s.selectedPoly := rfl
@[simp] theorem raiseClockFault_freeReads (cause : BitVec 2) (s : State) : ((raiseClockFault cause s).state).freeReads = s.freeReads := rfl

@[simp] theorem envFilter_smoothed (cfg : Config) (m : Binary32) (s : State) : (envFilter cfg m s).smoothed = smoothe cfg s.smoothed m := rfl
@[simp] theorem envFilter_decimCount (cfg : Config) (m : Binary32) (s : State) : (envFilter cfg m s).decimCount = s.decimCount := rfl
@[simp] theorem envFilter_ookMax (cfg : Config) (m : Binary32) (s : State) : (envFilter cfg m s).ookMax = s.ookMax := rfl
@[simp] theorem envFilter_lastChip (cfg : Config) (m : Binary32) (s : State) : (envFilter cfg m s).lastChip = s.lastChip := rfl
@[simp] theorem envFilter_sinceEdge (cfg : Config) (m : Binary32) (s : State) : (envFilter cfg m s).sinceEdge = s.sinceEdge := rfl
@[simp] theorem envFilter_phase (cfg : Config) (m : Binary32) (s : State) : (envFilter cfg m s).phase = s.phase := rfl
@[simp] theorem envFilter_frame (cfg : Config) (m : Binary32) (s : State) : (envFilter cfg m s).frame = s.frame := rfl
@[simp] theorem envFilter_payloadCount (cfg : Config) (m : Binary32) (s : State) : (envFilter cfg m s).payloadCount = s.payloadCount := rfl
@[simp] theorem envFilter_errorCount (cfg : Config) (m : Binary32) (s : State) : (envFilter cfg m s).errorCount = s.errorCount := rfl
@[simp] theorem envFilter_registry (cfg : Config) (m : Binary32) (s : State) : (envFilter cfg m s).registry = s.registry := rfl
@[simp] theorem envFilter_rxGood (cfg : Config) (m : Binary32) (s : State) : (envFilter cfg m s).rxGood = s.rxGood := rfl
@[simp] theorem envFilter_rxLastPublishTime (cfg : Config) (m : Binary32) (s : State) : (envFilter cfg m s).rxLastPublishTime = s.rxLastPublishTime := rfl
@[simp] theorem envFilter_halted (cfg : Config) (m : Binary32) (s : State) : (envFilter cfg m s).halted = s.halted := rfl
@[simp] theorem envFilter_faultCause (cfg : Config) (m : Binary32) (s : State) : (envFilter cfg m s).faultCause = s.faultCause := rfl
@[simp] theorem envFilter_input (cfg : Config) (m : Binary32) (s : State) : (envFilter cfg m s).input = s.input := rfl
@[simp] theorem envFilter_output (cfg : Config) (m : Binary32) (s : State) : (envFilter cfg m s).output = s.output := rfl
@[simp] theorem envFilter_selectedPoly (cfg : Config) (m : Binary32) (s : State) : (envFilter cfg m s).selectedPoly = s.selectedPoly := rfl
@[simp] theorem envFilter_freeReads (cfg : Config) (m : Binary32) (s : State) : (envFilter cfg m s).freeReads = s.freeReads := rfl

@[simp] theorem startStep_startStep (s : State) : s.startStep.startStep = s.startStep := rfl

@[simp] theorem returned_state (s : State) : (Call.returned s).state = s := rfl

@[simp] theorem abandoned_state (s : State) : (Call.abandoned s).state = s := rfl

@[simp] theorem returned_andThen (s : State) (rest : State → Call) : (Call.returned s).andThen rest = rest s := rfl

@[simp] theorem abandoned_andThen (s : State) (rest : State → Call) :
    (Call.abandoned s).andThen rest = .abandoned s := rfl

theorem runCall_halted {s : State} (h : s.halted = true) (op : State → Call) : runCall s op = s.startStep := by
  simp [runCall, h]

theorem runCall_running {s : State} (h : s.halted = false) (op : State → Call) :
    runCall s op = (op s.startStep).state := by
  simp [runCall, h]

theorem runPlain_halted {s : State} (h : s.halted = true) (op : State → State) : runPlain s op = s.startStep := by
  simp [runPlain, h]

theorem runPlain_running {s : State} (h : s.halted = false) (op : State → State) :
    runPlain s op = op s.startStep := by
  simp [runPlain, h]

/-- An operation whose call changes nothing. -/
theorem runCall_returned (s : State) : runCall s (fun t => .returned t) = s.startStep := by
  simp [runCall]

end Sys2Proof.Machine
end

