-- ==== Sys2Proof/Laws/Memory.lean ====
section
/-! SUPPORT. The laws of the registry: a read after a write, the canonical form, and that equal reads in canonical
form are equal registries. -/

namespace Sys2Proof.Machine

theorem memRead_memWrite_same (m : Memory) (s : Serial) (e : DeviceState) :
    memRead (memWrite m s e) s = some e := by
  induction m with
  | nil => simp [memWrite, memRead]
  | cons x rest ih =>
    obtain ⟨t, f⟩ := x
    rw [memWrite]
    split
    · simp [memRead]
    · split
      · simp [memRead]
      · rename_i h
        simp [memRead, h, ih]

theorem memRead_memWrite_other (m : Memory) {s x : Serial} (e : DeviceState) (h : x ≠ s) :
    memRead (memWrite m s e) x = memRead m x := by
  induction m with
  | nil => simp [memWrite, memRead, h]
  | cons y rest ih =>
    obtain ⟨t, f⟩ := y
    rw [memWrite]
    split
    · simp [memRead, h]
    · split
      · rename_i hst
        subst hst
        simp [memRead, h]
      · simp [memRead, ih]

theorem memRead_memWrite (m : Memory) (s x : Serial) (e : DeviceState) :
    memRead (memWrite m s e) x = if x = s then some e else memRead m x := by
  split
  · rename_i h
    subst h
    exact memRead_memWrite_same m x e
  · rename_i h
    exact memRead_memWrite_other m e h

theorem mem_memWrite {m : Memory} {s : Serial} {e : DeviceState} {x : Serial × DeviceState}
    (h : x ∈ memWrite m s e) : x = (s, e) ∨ x ∈ m := by
  induction m with
  | nil => simpa [memWrite] using h
  | cons y rest ih =>
    obtain ⟨t, f⟩ := y
    rw [memWrite] at h
    split at h
    · simpa using h
    · split at h
      · rcases List.mem_cons.mp h with h | h
        · exact .inl h
        · exact .inr (List.mem_cons_of_mem _ h)
      · rcases List.mem_cons.mp h with h | h
        · exact .inr (h ▸ List.mem_cons_self)
        · rcases ih h with h | h
          · exact .inl h
          · exact .inr (List.mem_cons_of_mem _ h)

/-- Every write keeps the canonical form. -/
theorem memWrite_wf {m : Memory} (h : m.wf) (s : Serial) (e : DeviceState) : (memWrite m s e).wf := by
  induction m with
  | nil => simp [memWrite, Memory.wf]
  | cons x rest ih =>
    obtain ⟨t, f⟩ := x
    have hrest := List.pairwise_cons.mp h
    rw [memWrite]
    split
    · rename_i hlt
      refine List.pairwise_cons.mpr ⟨?_, h⟩
      intro y hy
      rcases List.mem_cons.mp hy with rfl | hy
      · exact hlt
      · exact BitVec.lt_trans hlt (hrest.1 y hy)
    · split
      · rename_i hst
        subst hst
        exact List.pairwise_cons.mpr ⟨hrest.1, hrest.2⟩
      · rename_i hlt hne
        refine List.pairwise_cons.mpr ⟨?_, ih hrest.2⟩
        intro y hy
        rcases mem_memWrite hy with rfl | hy
        · exact BitVec.lt_of_le_ne (BitVec.not_lt.mp hlt) (Ne.symm hne)
        · exact hrest.1 y hy

/-- A write-back replaces a present record and leaves an absent one absent. -/
theorem memRead_memRefresh (m : Memory) (s x : Serial) (e : DeviceState) :
    memRead (memRefresh m s e) x = if x = s then (memRead m x).map fun _ => e else memRead m x := by
  unfold memRefresh
  split <;> rename_i h
  · rw [memRead_memWrite]
    split
    · rename_i hx
      simp [hx, h]
    · rfl
  · split
    · rename_i hx
      simp [hx, h]
    · rfl

/-- Of a present entry a write-back is a write. -/
theorem memRefresh_present {m : Memory} {s : Serial} {old : DeviceState} (h : memRead m s = some old)
    (e : DeviceState) : memRefresh m s e = memWrite m s e := by
  simp [memRefresh, h]

theorem memRefresh_wf {m : Memory} (h : m.wf) (s : Serial) (e : DeviceState) : (memRefresh m s e).wf := by
  unfold memRefresh
  split
  · exact memWrite_wf h s e
  · exact h

theorem memRead_none_of_forall_ne {m : Memory} {s : Serial} (h : ∀ x ∈ m, s ≠ x.1) : memRead m s = none := by
  induction m with
  | nil => rfl
  | cons x rest ih =>
    obtain ⟨t, f⟩ := x
    simp [memRead, h (t, f) List.mem_cons_self, ih fun y hy => h y (List.mem_cons_of_mem _ hy)]

/-- A serial below every listed one is absent. -/
theorem memRead_below {m : Memory} {s : Serial} (h : ∀ x ∈ m, s < x.1) : memRead m s = none :=
  memRead_none_of_forall_ne fun x hx => BitVec.ne_of_lt (h x hx)

/-- The listed serials are the present ones. -/
theorem mem_presentSerials {m : Memory} {s : Serial} : s ∈ presentSerials m ↔ (memRead m s).isSome := by
  induction m with
  | nil => simp [presentSerials, memRead]
  | cons x rest ih =>
    obtain ⟨t, f⟩ := x
    by_cases h : s = t
    · simp [presentSerials, memRead, h]
    · simpa [presentSerials, memRead, h] using ih

theorem presentSerials_pairwise {m : Memory} (h : m.wf) : (presentSerials m).Pairwise (· < ·) :=
  List.pairwise_map.mpr h

theorem presentSerials_nodup {m : Memory} (h : m.wf) : (presentSerials m).Nodup :=
  (presentSerials_pairwise h).imp fun hab => BitVec.ne_of_lt hab

/-- In canonical form, registries that read the same everywhere are equal. -/
theorem memory_ext {m n : Memory} (hm : m.wf) (hn : n.wf) (h : ∀ s, memRead m s = memRead n s) : m = n := by
  induction m generalizing n with
  | nil =>
    cases n with
    | nil => rfl
    | cons y rest =>
      have := h y.1
      simp [memRead] at this
  | cons x rest ih =>
    obtain ⟨s, e⟩ := x
    cases n with
    | nil =>
      have := h s
      simp [memRead] at this
    | cons y others =>
      obtain ⟨t, f⟩ := y
      have hm' := List.pairwise_cons.mp hm
      have hn' := List.pairwise_cons.mp hn
      have hst : s = t := by
        by_contra hne
        rcases Nat.lt_or_ge s.toNat t.toNat with hlt | hge
        · have hnone : memRead ((t, f) :: others) s = none := by
            refine memRead_below ?_
            intro z hz
            rcases List.mem_cons.mp hz with rfl | hz
            · exact hlt
            · exact BitVec.lt_trans hlt (hn'.1 z hz)
          have hs := h s
          rw [hnone] at hs
          simp [memRead] at hs
        · have hlt : t < s := BitVec.lt_of_le_ne hge fun h => hne h.symm
          have hnone : memRead ((s, e) :: rest) t = none := by
            refine memRead_below ?_
            intro z hz
            rcases List.mem_cons.mp hz with rfl | hz
            · exact hlt
            · exact BitVec.lt_trans hlt (hm'.1 z hz)
          have ht := h t
          rw [hnone] at ht
          simp [memRead] at ht
      subst hst
      have hef : e = f := by simpa [memRead] using h s
      subst hef
      refine congrArg _ (ih hm'.2 hn'.2 ?_)
      intro z
      by_cases hz : z = s
      · subst hz
        rw [memRead_below hm'.1, memRead_below hn'.1]
      · simpa [memRead, hz] using h z

end Sys2Proof.Machine
end

