-- ==== Sys2Proof/Laws/PerInstr.lean ====
section
/-! SUPPORT. A statement about every operation, one lemma for each constructor: the selector of its word is the one
that its row of spec/opcode_table.json matches, under the row's mask. -/

namespace Sys2Proof

/-- The selector of the word of a well-formed operation matches its row of the table. -/
def Laws.TableMatch.Statement (i : Instr) : Prop :=
  i.wellFormed = true → (encodeFields i).sel &&& (tableRow i).2 = (tableRow i).1

theorem Laws.TableMatch.idle : Laws.TableMatch.Statement .idle :=
  fun _ => rfl

theorem Laws.TableMatch.sample (m : Binary32) (now : Time) (nowValid : Bool) : Laws.TableMatch.Statement (.sample m now nowValid) :=
  fun _ => by simp [encodeFields, tableRow]

theorem Laws.TableMatch.rxfail (now : Time) (nowValid : Bool) : Laws.TableMatch.Statement (.rxfail now nowValid) :=
  fun _ => by simp [encodeFields, tableRow]

theorem Laws.TableMatch.reset : Laws.TableMatch.Statement .reset :=
  fun _ => rfl

theorem Laws.TableMatch.envFilter (m : Binary32) : Laws.TableMatch.Statement (.envFilter m) :=
  fun _ => by simp [encodeFields, tableRow]

theorem Laws.TableMatch.envDecim (now : Time) (nowValid : Bool) : Laws.TableMatch.Statement (.envDecim now nowValid) :=
  fun _ => by simp [encodeFields, tableRow]

theorem Laws.TableMatch.peakForward (v : Binary32) (now : Time) (nowValid : Bool) : Laws.TableMatch.Statement (.peakForward v now nowValid) :=
  fun _ => by simp [encodeFields, tableRow]

theorem Laws.TableMatch.syncChip (c : Byte) (now : Time) (nowValid : Bool) : Laws.TableMatch.Statement (.syncChip c now nowValid) :=
  fun _ => by simp [encodeFields, tableRow]

theorem Laws.TableMatch.manStep (b : Byte) (now : Time) (nowValid : Bool) : Laws.TableMatch.Statement (.manStep b now nowValid) :=
  fun _ => by simp [encodeFields, tableRow]

theorem Laws.TableMatch.manLowA0 : Laws.TableMatch.Statement .manLowA0 :=
  fun _ => rfl

theorem Laws.TableMatch.manLowA1 : Laws.TableMatch.Statement .manLowA1 :=
  fun _ => rfl

theorem Laws.TableMatch.manLowB0 (now : Time) (nowValid : Bool) : Laws.TableMatch.Statement (.manLowB0 now nowValid) :=
  fun _ => by simp [encodeFields, tableRow]

theorem Laws.TableMatch.manLowB1 (now : Time) (nowValid : Bool) : Laws.TableMatch.Statement (.manLowB1 now nowValid) :=
  fun _ => by simp [encodeFields, tableRow]

theorem Laws.TableMatch.manHighA0 : Laws.TableMatch.Statement .manHighA0 :=
  fun _ => rfl

theorem Laws.TableMatch.manHighA1 : Laws.TableMatch.Statement .manHighA1 :=
  fun _ => rfl

theorem Laws.TableMatch.manHighB0 (now : Time) (nowValid : Bool) : Laws.TableMatch.Statement (.manHighB0 now nowValid) :=
  fun _ => by simp [encodeFields, tableRow]

theorem Laws.TableMatch.manHighB1 (now : Time) (nowValid : Bool) : Laws.TableMatch.Statement (.manHighB1 now nowValid) :=
  fun _ => by simp [encodeFields, tableRow]

theorem Laws.TableMatch.frmShift (d : Byte) (now : Time) (nowValid : Bool) : Laws.TableMatch.Statement (.frmShift d now nowValid) :=
  fun _ => by simp [encodeFields, tableRow]

theorem Laws.TableMatch.frmDetect (now : Time) (nowValid : Bool) : Laws.TableMatch.Statement (.frmDetect now nowValid) :=
  fun _ => by simp [encodeFields, tableRow]

theorem Laws.TableMatch.crcCheck (p : Payload) (now : Time) (nowValid : Bool) : Laws.TableMatch.Statement (.crcCheck p now nowValid) := by
  intro h
  have h48 : p.extractLsb' 48 16 = 0xFFFE#16 := by simpa [Instr.wellFormed, tableSync] using h
  refine BitVec.eq_of_getLsbD_eq fun k hk => ?_
  have hbit := fun j => congrArg (fun x => x.getLsbD j) h48
  simp only [BitVec.getLsbD_extractLsb'] at hbit
  simp only [encodeFields, tableRow, BitVec.getLsbD_and]
  by_cases hlow : k < 48
  · have hmask : (0xFFFF000000000000#64).getLsbD k = false := by interval_cases k <;> decide
    have hmatch : (0xFFFE000000000000#64).getLsbD k = false := by interval_cases k <;> decide
    simp [hmask, hmatch]
  · have hk' := hbit (k - 48)
    rw [show 48 + (k - 48) = k by omega] at hk'
    have hmask : (0xFFFF000000000000#64).getLsbD k = true := by interval_cases k <;> decide
    have hmatch : (0xFFFE#16).getLsbD (k - 48) = (0xFFFE000000000000#64).getLsbD k := by
      interval_cases k <;> decide
    rw [hmask, Bool.and_true, ← hmatch, ← hk']
    simp [show k - 48 < 16 by omega]

theorem Laws.TableMatch.crcPoly2gig (brand : BitVec 4) : Laws.TableMatch.Statement (.crcPoly2gig brand) := by
  have h : ∀ b : BitVec 4, matches2gig b = true → b.setWidth 64 &&& 0x7#64 = 0x2#64 := by decide
  exact h brand

theorem Laws.TableMatch.crcPolyDefault (brand : BitVec 4) : Laws.TableMatch.Statement (.crcPolyDefault brand) :=
  fun _ => by simp [encodeFields, tableRow, OpFields.plain]

theorem Laws.TableMatch.rxhMark (g : Bool) (clock : Clock) :
    Laws.TableMatch.Statement (.rxhMark g clock) :=
  fun _ => by simp [encodeFields, tableRow]

theorem Laws.TableMatch.devUpdate (serial : Serial) (status : Byte) (clock : Clock) :
    Laws.TableMatch.Statement (.devUpdate serial status clock) :=
  fun _ => by simp [encodeFields, tableRow]

theorem Laws.TableMatch.devNotify (serial : Serial) (status : Byte) (clock : Clock) :
    Laws.TableMatch.Statement (.devNotify serial status clock) :=
  fun _ => by simp [encodeFields, tableRow]

theorem Laws.TableMatch.sweep (clock : Clock) :
    Laws.TableMatch.Statement (.sweep clock) :=
  fun _ => by simp [encodeFields, tableRow]

end Sys2Proof
end

