-- ==== Sys2Proof/Laws/Stages.lean ====
section
/-! SUPPORT. One lemma for each stage that says what it can do: which fields it writes, and how its call ends. -/

namespace Sys2Proof.Machine

/-- Elapsed time at this hardware's 64 bits (rule R8). -/
@[simp] theorem elapsed_hardware (now t : Time) : elapsed hardware now t = now - t := by
  simp [elapsed, hardware]

/-- Counting at this hardware's 32 bits (rule R19). -/
@[simp] theorem countUp_hardware (n : Counter) : countUp hardware n = n + 1 := by
  simp [countUp, hardware]

/-- What one sweep does to one record, under any configuration (rule R191). -/
def flaggedBy (cfg : Config) (now : Time) (e : DeviceState) : DeviceState :=
  if timesOut cfg now e then { e with timeout := true } else e

theorem timesOut_flaggedBy (cfg : Config) (now : Time) (e : DeviceState) :
    timesOut cfg now (flaggedBy cfg now e) = false := by
  unfold flaggedBy
  split
  · simp [timesOut]
  · rename_i h
    simpa using h

/-- A second sweep at the same time changes nothing more. -/
theorem flaggedBy_flaggedBy (cfg : Config) (now : Time) (e : DeviceState) :
    flaggedBy cfg now (flaggedBy cfg now e) = flaggedBy cfg now e := by
  rw [flaggedBy, timesOut_flaggedBy]
  rfl

theorem flaggedBy_hardware (now : Time) (e : DeviceState) : flaggedBy hardware now e = flagged now e := by
  have h : hardware.sensorTimeout = 27000#64 := by decide
  simp [flaggedBy, flagged, timesOut, h]

/-- The event of rule R191 for one serial, if it times out. -/
def timeoutEvent (cfg : Config) (now : Time) (m : Memory) (serial : Serial) : List Event :=
  match memRead m serial with
  | none => []
  | some e => if timesOut cfg now e then [.publish .status serial .timeout] else []

/-- One visit of the sweep writes the registry and the output list, and nothing else. -/
theorem sweepOne_spec (cfg : Config) (now : Time) (s : State) (serial : Serial) :
    ∃ m, sweepOne cfg now s serial =
        { s with registry := m, output := s.output ++ timeoutEvent cfg now s.registry serial } ∧
      (∀ x, memRead m x =
        if x = serial then (memRead s.registry x).map (flaggedBy cfg now) else memRead s.registry x) ∧
      (s.registry.wf → m.wf) := by
  cases hr : memRead s.registry serial with
  | none =>
    refine ⟨s.registry, ?_, ?_, fun h => h⟩
    · simp [sweepOne, timeoutEvent, hr]
    · intro x
      split
      · rename_i hx
        subst hx
        simp [hr]
      · rfl
  | some e =>
    by_cases ht : timesOut cfg now e = true
    · refine ⟨memWrite s.registry serial { e with timeout := true }, ?_, ?_, fun h => memWrite_wf h _ _⟩
      · simp [sweepOne, timeoutEvent, hr, ht, State.emit]
      · intro x
        rw [memRead_memWrite]
        split
        · rename_i hx
          subst hx
          simp [hr, flaggedBy, ht]
        · rfl
    · refine ⟨s.registry, ?_, ?_, fun h => h⟩
      · simp [sweepOne, timeoutEvent, hr, ht]
      · intro x
        split
        · rename_i hx
          subst hx
          simp [hr, flaggedBy, ht]
        · rfl

theorem timeoutEvent_congr {cfg : Config} {now : Time} {m n : Memory} {x : Serial}
    (h : memRead m x = memRead n x) : timeoutEvent cfg now m x = timeoutEvent cfg now n x := by
  simp [timeoutEvent, h]

/-- The visits of a sweep, in any order without repeats: every visited record is flagged where it times out, every
other is unchanged, and the events are those of the visits in order. -/
theorem sweepFold_spec (cfg : Config) (now : Time) (order : List Serial) (hd : order.Nodup) (s : State) :
    ∃ m, order.foldl (sweepOne cfg now) s =
        { s with registry := m, output := s.output ++ order.flatMap (timeoutEvent cfg now s.registry) } ∧
      (∀ x, memRead m x =
        if x ∈ order then (memRead s.registry x).map (flaggedBy cfg now) else memRead s.registry x) ∧
      (s.registry.wf → m.wf) := by
  induction order generalizing s with
  | nil => exact ⟨s.registry, by simp, by simp, fun h => h⟩
  | cons a rest ih =>
    obtain ⟨ha, hrest⟩ := List.nodup_cons.mp hd
    obtain ⟨m₁, h₁, hr₁, hw₁⟩ := sweepOne_spec cfg now s a
    obtain ⟨m, h, hr, hw⟩ := ih hrest (sweepOne cfg now s a)
    have hreg : (sweepOne cfg now s a).registry = m₁ := by rw [h₁]
    refine ⟨m, ?_, ?_, fun hwf => hw (by rw [hreg]; exact hw₁ hwf)⟩
    · rw [List.foldl_cons, h, h₁]
      have hcongr : rest.flatMap (timeoutEvent cfg now m₁) = rest.flatMap (timeoutEvent cfg now s.registry) := by
        refine List.flatMap_congr fun x hx => timeoutEvent_congr ?_
        rw [hr₁]
        exact if_neg fun hxa : x = a => ha (hxa ▸ hx)
      simp [hcongr]
    · intro x
      rw [hr, hreg, hr₁]
      by_cases hxa : x = a
      · subst hxa
        simp [ha]
      · simp [hxa]

/-- A sweep in the order of any allowed configuration. -/
theorem sweepAll_spec {cfg : Config} (hperm : ∀ l, (cfg.sweepOrder l).Perm l) (now : Time) (s : State)
    (hwf : s.registry.wf) :
    ∃ m, sweepAll cfg now s =
        { s with
          registry := m
          output := s.output ++
            (cfg.sweepOrder (presentSerials s.registry)).flatMap (timeoutEvent cfg now s.registry) } ∧
      (∀ x, memRead m x = (memRead s.registry x).map (flaggedBy cfg now)) ∧ m.wf := by
  have hp := hperm (presentSerials s.registry)
  obtain ⟨m, h, hr, hw⟩ :=
    sweepFold_spec cfg now _ (hp.nodup_iff.mpr (presentSerials_nodup hwf)) s
  refine ⟨m, h, ?_, hw hwf⟩
  intro x
  rw [hr]
  split
  · rfl
  · rename_i hx
    have hnone : memRead s.registry x = none := by
      by_contra hne
      exact hx (hp.mem_iff.mpr (mem_presentSerials.mpr (Option.isSome_iff_ne_none.mpr hne)))
    simp [hnone]

/-- A sweep writes the registry and the output list, whatever the registry's form. -/
theorem sweepAll_frame (cfg : Config) (now : Time) (s : State) :
    ∃ m out, sweepAll cfg now s = { s with registry := m, output := s.output ++ out } ∧
      (s.registry.wf → m.wf) ∧
      (∀ x, memRead m x = memRead s.registry x ∨ memRead m x = (memRead s.registry x).map (flaggedBy cfg now)) ∧
      (∀ ev ∈ out, ∃ x, ev = .publish .status x .timeout) := by
  unfold sweepAll
  generalize cfg.sweepOrder (presentSerials s.registry) = order
  induction order generalizing s with
  | nil => exact ⟨s.registry, [], by simp, fun h => h, fun _ => .inl rfl, by simp⟩
  | cons a rest ih =>
    obtain ⟨m₁, h₁, hr₁, hw₁⟩ := sweepOne_spec cfg now s a
    obtain ⟨m, out, h, hw, hr, hev⟩ := ih (sweepOne cfg now s a)
    have hreg : (sweepOne cfg now s a).registry = m₁ := by rw [h₁]
    refine ⟨m, timeoutEvent cfg now s.registry a ++ out, ?_, fun hwf => hw (by rw [hreg]; exact hw₁ hwf), ?_, ?_⟩
    · rw [List.foldl_cons, h, h₁]
      simp
    · intro x
      have hx := hr x
      rw [hreg, hr₁] at hx
      by_cases hxa : x = a
      · subst hxa
        cases hm : memRead s.registry x <;> simp_all [flaggedBy_flaggedBy]
      · simpa [hxa] using hx
    · intro ev hmem
      rcases List.mem_append.mp hmem with hmem | hmem
      · unfold timeoutEvent at hmem
        split at hmem
        · simp at hmem
        · split at hmem
          · exact ⟨a, by simpa using hmem⟩
          · simp at hmem
      · exact hev ev hmem

/-- `RXH.MARK` writes the health state and at most one event. -/
theorem rxhMark_spec (cfg : Config) (g : Bool) (now : Time) (s : State) :
    rxhMark cfg g now s =
      { s with
        rxGood := g
        rxLastPublishTime := if rxGate cfg g now s then now else s.rxLastPublishTime
        output := s.output ++
          if rxGate cfg g now s then [.publish .rxStatus 0#20 (if g then .ok else .failed)] else [] } := by
  unfold rxhMark
  split <;> simp [State.emit, *]

theorem rxhMark_frame (cfg : Config) (g : Bool) (now : Time) (s : State) :
    ∃ rl out, rxhMark cfg g now s =
      { s with rxGood := g, rxLastPublishTime := rl, output := s.output ++ out } :=
  ⟨_, _, rxhMark_spec cfg g now s⟩

/-- `DEV.NOTIFY` for a present serial: the gate decides. -/
theorem devNotify_present {s : State} {serial : Serial} {e : DeviceState} (h : memRead s.registry serial = some e)
    (cfg : Config) (status : Byte) (now : Time) :
    devNotify cfg serial status now s =
      if notifyGate cfg status now e then notifyDevice cfg serial status now e s else s := by
  simp [devNotify, notifyRead, h]

/-- A notified update writes the registry and the output list: the two publishes first, the listing last. It creates
no entry. -/
theorem notifyDevice_frame (cfg : Config) (serial : Serial) (status : Byte) (now : Time) (e : DeviceState)
    (s : State) :
    ∃ m out, notifyDevice cfg serial status now e s =
        { s with
          registry := m
          output := s.output ++
            ([.publish .alarm serial (alarmPayload e.alarm),
              .publish .status serial (statusPayload e.tamper e.batteryLow)] ++ out ++
              [.deviceList serial (listing m)]) } ∧
      (s.registry.wf → m.wf) ∧
      (∀ x, let kept : DeviceState := { e with lastUpdateTime := now, lastRawState := status }
        let before := if x = serial then (memRead s.registry x).map fun _ => kept else memRead s.registry x
        memRead m x = before ∨ memRead m x = before.map (flaggedBy cfg now)) ∧
      (∀ ev ∈ out, ∃ x, ev = .publish .status x .timeout) := by
  let published := (s.emit (.publish .alarm serial (alarmPayload e.alarm))).emit
    (.publish .status serial (statusPayload e.tamper e.batteryLow))
  let kept : DeviceState := { e with lastUpdateTime := now, lastRawState := status }
  obtain ⟨m, out, h, hw, hr, hev⟩ :=
    sweepAll_frame cfg now { published with registry := memRefresh published.registry serial kept }
  refine ⟨m, out, ?_, fun hwf => hw (memRefresh_wf hwf _ _), ?_, hev⟩
  · have hn : notifyDevice cfg serial status now e s =
        (sweepAll cfg now { published with registry := memRefresh published.registry serial kept }).emit
          (.deviceList serial (listing (sweepAll cfg now
            { published with registry := memRefresh published.registry serial kept }).registry)) := rfl
    rw [hn, h]
    simp [State.emit, published]
  · intro x
    have hx := hr x
    simp only [published, emit_registry, memRead_memRefresh] at hx
    exact hx

/-- `DEV.NOTIFY` writes the registry, the output list and the count of free reads. -/
theorem devNotify_frame (cfg : Config) (serial : Serial) (status : Byte) (now : Time) (s : State) :
    ∃ m out k, devNotify cfg serial status now s =
        { s with registry := m, output := s.output ++ out, freeReads := k } ∧ (s.registry.wf → m.wf) := by
  unfold devNotify notifyRead
  cases memRead s.registry serial with
  | none =>
    simp only
    split
    · obtain ⟨m, out, h, hw, -, -⟩ := notifyDevice_frame cfg serial status now
        (.unpack (Config.freeRecord serial s.freeReads)) { s with freeReads := s.freeReads + 1 }
      exact ⟨m, _, s.freeReads + 1, h, hw⟩
    · exact ⟨s.registry, [], s.freeReads + 1, by simp, fun h => h⟩
  | some e =>
    simp only
    split
    · obtain ⟨m, out, h, hw, -, -⟩ := notifyDevice_frame cfg serial status now e s
      exact ⟨m, _, s.freeReads, h, hw⟩
    · exact ⟨s.registry, [], s.freeReads, by simp, fun h => h⟩

/-- `DEV.NOTIFY` creates no entry (rule R47). -/
theorem devNotify_creates_none (cfg : Config) (serial : Serial) (status : Byte) (now : Time) (s : State) {x : Serial}
    (h : memRead s.registry x = none) : memRead (devNotify cfg serial status now s).registry x = none := by
  have key : ∀ (e : DeviceState) (s : State), memRead s.registry x = none →
      memRead (notifyDevice cfg serial status now e s).registry x = none := by
    intro e s h
    obtain ⟨m, out, hn, -, hr, -⟩ := notifyDevice_frame cfg serial status now e s
    rw [hn]
    have hx := hr x
    simp only [h, Option.map_none, ite_self] at hx
    simpa using hx
  unfold devNotify notifyRead
  cases hs : memRead s.registry serial <;> simp only <;> split
  · exact key _ _ h
  · exact h
  · exact key _ _ h
  · exact h

/-- `DEV.UPDATE` writes the registry and the output list. -/
theorem devUpdate_frame (cfg : Config) (serial : Serial) (status : Byte) (now : Time) (s : State) :
    ∃ m out, devUpdate cfg serial status now s = { s with registry := m, output := s.output ++ out } ∧
      (s.registry.wf → m.wf) := by
  let stored := storedDevice cfg s.registry serial status now
  have hr : memRead (memWrite s.registry serial stored) serial = some stored := memRead_memWrite_same _ _ _
  unfold devUpdate
  rw [devNotify_present (s := { s with registry := memWrite s.registry serial stored }) hr]
  split
  · obtain ⟨m, out, h, hw, -, -⟩ := notifyDevice_frame cfg serial status now stored
      { s with registry := memWrite s.registry serial stored }
    exact ⟨m, _, h, fun hwf => hw (memWrite_wf hwf _ _)⟩
  · exact ⟨memWrite s.registry serial stored, [], by simp [stored], fun hwf => memWrite_wf hwf _ _⟩

/-- The two selections of `CRC.CHECK` together select the polynomial of the brand. -/
theorem crcPoly_select (cfg : Config) (brand : BitVec 4) (s : State) :
    crcPolyDefault cfg brand (crcPoly2gig cfg brand s) = { s with selectedPoly := some (polyOf cfg brand) } := by
  unfold crcPolyDefault crcPoly2gig polyOf
  split <;> simp_all

/-- `CRC.CHECK` does one of three things (rule R155). -/
theorem crcCheck_cases (cfg : Config) (p : Payload) (clock : Clock) (s : State) :
    let counted : State :=
      { s with payloadCount := countUp cfg s.payloadCount, selectedPoly := some (polyOf cfg (brandOf p)) }
    (crcValid cfg p = false ∧ crcCheck cfg p clock s = .returned
      { counted with
        errorCount := countUp cfg s.errorCount
        output := s.output ++ [.crcFail p (countUp cfg s.errorCount) (countUp cfg s.payloadCount)] }) ∨
    (crcValid cfg p = true ∧ clock.valid = false ∧ crcCheck cfg p clock s = raiseClockFault clockAtPayload counted) ∨
    (crcValid cfg p = true ∧ clock.valid = true ∧ crcCheck cfg p clock s = .returned
      (devUpdate cfg (serialOf p) (statusOf p) clock.now (rxhMark cfg true clock.now counted))) := by
  unfold crcCheck
  simp only [crcPoly_select]
  cases hv : crcValid cfg p
  · exact .inl ⟨rfl, by simp [State.emit]⟩
  · cases hc : clock.valid
    · exact .inr (.inl ⟨rfl, rfl, by simp⟩)
    · exact .inr (.inr ⟨rfl, rfl, by simp⟩)

/-- Whatever its verdict, `CRC.CHECK` writes none of the decoder's registers and nothing the host presents. -/
theorem crcCheck_frame (cfg : Config) (p : Payload) (clock : Clock) (s : State) :
    ∃ pc ec m rg rl ha fc out sp, (crcCheck cfg p clock s).state =
      { s with
        payloadCount := pc, errorCount := ec, registry := m, rxGood := rg, rxLastPublishTime := rl
        halted := ha, faultCause := fc, output := s.output ++ out, selectedPoly := sp } ∧
      (s.registry.wf → m.wf) := by
  rcases crcCheck_cases cfg p clock s with ⟨-, h⟩ | ⟨-, -, h⟩ | ⟨-, -, h⟩
  · rw [h]
    exact ⟨_, _, _, _, _, _, _, _, _, rfl, fun hwf => hwf⟩
  · rw [h]
    exact ⟨countUp cfg s.payloadCount, s.errorCount, s.registry, s.rxGood, s.rxLastPublishTime, true, clockAtPayload, [],
      some (polyOf cfg (brandOf p)), by simp [raiseClockFault], fun hwf => hwf⟩
  · obtain ⟨m, out, hd, hw⟩ := devUpdate_frame cfg (serialOf p) (statusOf p) clock.now
      (rxhMark cfg true clock.now
        { s with payloadCount := countUp cfg s.payloadCount, selectedPoly := some (polyOf cfg (brandOf p)) })
    obtain ⟨rl, marked, hm⟩ := rxhMark_frame cfg true clock.now
      { s with payloadCount := countUp cfg s.payloadCount, selectedPoly := some (polyOf cfg (brandOf p)) }
    rw [h, returned_state, hd, hm]
    rw [hm] at hw
    exact ⟨countUp cfg s.payloadCount, s.errorCount, m, true, rl, s.halted, s.faultCause, marked ++ out,
      some (polyOf cfg (brandOf p)), by simp, hw⟩

/-- A call is abandoned exactly when it leaves the block halted, for a call made on a running block. -/
theorem crcCheck_halted (cfg : Config) (p : Payload) (clock : Clock) {s : State} (h : s.halted = false) :
    (crcCheck cfg p clock s).state.halted = (crcValid cfg p && !clock.valid) := by
  rcases crcCheck_cases cfg p clock s with ⟨hv, hc⟩ | ⟨hv, hk, hc⟩ | ⟨hv, hk, hc⟩
  · simp [hv, hc, h]
  · simp [hv, hk, hc]
  · obtain ⟨m, out, hd, -⟩ := devUpdate_frame cfg (serialOf p) (statusOf p) clock.now
      (rxhMark cfg true clock.now
        { s with payloadCount := countUp cfg s.payloadCount, selectedPoly := some (polyOf cfg (brandOf p)) })
    rw [hc, returned_state, hd, rxhMark_spec]
    simp [hv, hk, h]

/-- `FRM.DETECT`: no match, a payload that the validator returns from, or one whose time could not be read. -/
theorem frmDetect_cases (cfg : Config) (clock : Clock) (s : State) :
    (syncOf s.frame ≠ cfg.syncPattern ∧ frmDetect cfg clock s = .returned s) ∨
    (syncOf s.frame = cfg.syncPattern ∧ (crcValid cfg s.frame && !clock.valid) = false ∧
      ∃ t, crcCheck cfg s.frame clock s = .returned t ∧ frmDetect cfg clock s = .returned { t with frame := 0#64 }) ∨
    (syncOf s.frame = cfg.syncPattern ∧ (crcValid cfg s.frame && !clock.valid) = true ∧
      ∃ t, crcCheck cfg s.frame clock s = .abandoned t ∧ frmDetect cfg clock s = .abandoned t) := by
  by_cases hm : syncOf s.frame = cfg.syncPattern
  · rcases crcCheck_cases cfg s.frame clock s with ⟨hv, hc⟩ | ⟨hv, hk, hc⟩ | ⟨hv, hk, hc⟩
    · exact .inr (.inl ⟨hm, by simp [hv], _, hc, by simp [frmDetect, hm, hc]⟩)
    · exact .inr (.inr ⟨hm, by simp [hv, hk], _, hc, by simp [frmDetect, hm, hc, raiseClockFault]⟩)
    · exact .inr (.inl ⟨hm, by simp [hk], _, hc, by simp [frmDetect, hm, hc]⟩)
  · exact .inl ⟨hm, by simp [frmDetect, hm]⟩

theorem malformed_iff (b : Byte) : malformed b = true ↔ b ≠ 0#8 ∧ b ≠ 1#8 := by
  simp [malformed]

/-- A machine evaluated in a B state emits its pending bit through `FRM.SHIFT`; in an A state nothing is emitted. -/
theorem manDecide_of_A {s : State} (h : s.phase = .lowA ∨ s.phase = .highA) (cfg : Config) (b : Bool)
    (clock : Clock) : manDecide cfg b clock s = .returned { s with phase := nextPhase s.phase b } := by
  rcases h with h | h <;> simp [manDecide, emitPending, pendingBit, h]

theorem manDecide_of_lowB {s : State} (h : s.phase = .lowB) (cfg : Config) (b : Bool) (clock : Clock) :
    manDecide cfg b clock s =
      (frmShift cfg 0#8 clock s).andThen fun t => .returned { t with phase := nextPhase .lowB b } := by
  simp [manDecide, emitPending, pendingBit, h]

theorem manDecide_of_highB {s : State} (h : s.phase = .highB) (cfg : Config) (b : Bool) (clock : Clock) :
    manDecide cfg b clock s =
      (frmShift cfg 1#8 clock s).andThen fun t => .returned { t with phase := nextPhase .highB b } := by
  simp [manDecide, emitPending, pendingBit, h]

/-- Every meaning answers a next state: no operation of the block stops it without one (rule R224). -/
theorem exec_next (i : Instr) (s : State) : ∃ t, exec i s = .next t := by
  cases i <;> exact ⟨_, rfl⟩

end Sys2Proof.Machine
end

