-- ==== Sys2Proof/Tests/Slice0.lean ====
section
/-! SUPPORT. The model's own tests. Expected values come from the spec: the worked examples of its rules and its
tables, and the words written out from the layout in Sys2Proof/Decode.lean and the selectors of
spec/opcode_table.json. Each `witness_<Name>` meets the hypotheses of the statement of that name. -/

namespace Sys2Proof.Tests

open Sys2Proof Sys2Proof.Machine

set_option maxRecDepth 8000

/-! ### WellFormed: an ill-formed term for each check -/

/-- A payload without the sync pattern (rule R60). -/
theorem test_crc_check_without_sync_is_ill_formed :
    (Instr.crcCheck 0x7FFE803039A0163F#64 0#64 true).wellFormed = false := by decide

/-- Brand 8 is not one of the 2GIG brands (rule R66). -/
theorem test_2gig_row_with_brand_8_is_ill_formed : (Instr.crcPoly2gig 8#4).wellFormed = false := by decide

/-- Brand 10 is one of the 2GIG brands (rule R66). -/
theorem test_default_row_with_brand_10_is_ill_formed : (Instr.crcPolyDefault 10#4).wellFormed = false := by decide

/-- Every brand is well-formed for exactly one of the two rows (rule R66). -/
theorem test_brands_split :
    ∀ b : BitVec 4, (Instr.crcPoly2gig b).wellFormed = !(Instr.crcPolyDefault b).wellFormed := by decide

/-! ### Decoding: one written-out word for every operation -/

/-- `IDLE`. -/
theorem test_decode_idle :
    decode 0x00000000000000000000000000000000000000000000#176 = .ok (.idle) := by decide

/-- `SAMPLE`. -/
theorem test_decode_sample :
    decode 0x01003F80000000000000000003E80000000000000001#176 = .ok (.sample 0x3F800000#32 1000#64 true) := by decide

/-- `RXFAIL`. -/
theorem test_decode_rxfail :
    decode 0x00000000000000000000000013880000000000000002#176 = .ok (.rxfail 5000#64 false) := by decide

/-- `RESET`. -/
theorem test_decode_reset :
    decode 0x00000000000000000000000000000000000000000003#176 = .ok (.reset) := by decide

/-- `ENV.FILTER`. -/
theorem test_decode_envFilter :
    decode 0x00013F80000000000000000000000000000000000000#176 = .ok (.envFilter 0x3F800000#32) := by decide

/-- `ENV.DECIM`. -/
theorem test_decode_envDecim :
    decode 0x01020000000000000000000000070000000000000000#176 = .ok (.envDecim 7#64 true) := by decide

/-- `PEAK.FORWARD`. -/
theorem test_decode_peakForward :
    decode 0x00003E80000100000000000000070000000000000010#176 = .ok (.peakForward 0x3E800001#32 7#64 false) := by decide

/-- `SYNC.CHIP`. -/
theorem test_decode_syncChip :
    decode 0x0103000000FF00000000000000070000000000000000#176 = .ok (.syncChip 0xFF#8 7#64 true) := by decide

/-- `MAN.STEP`. -/
theorem test_decode_manStep :
    decode 0x01040000000100000000000000070000000000000004#176 = .ok (.manStep 1#8 7#64 true) := by decide

/-- `MAN.LowA.0`. -/
theorem test_decode_manLowA0 :
    decode 0x00050000000000000000000000000000000000000000#176 = .ok (.manLowA0) := by decide

/-- `MAN.LowA.1`. -/
theorem test_decode_manLowA1 :
    decode 0x00050000000000000000000000000000000000000001#176 = .ok (.manLowA1) := by decide

/-- `MAN.LowB.0`. -/
theorem test_decode_manLowB0 :
    decode 0x00050000000000000000000000070000000000000002#176 = .ok (.manLowB0 7#64 false) := by decide

/-- `MAN.LowB.1`. -/
theorem test_decode_manLowB1 :
    decode 0x01050000000000000000000000070000000000000003#176 = .ok (.manLowB1 7#64 true) := by decide

/-- `MAN.HighA.0`. -/
theorem test_decode_manHighA0 :
    decode 0x00000000000000000000000000000000000000000004#176 = .ok (.manHighA0) := by decide

/-- `MAN.HighA.1`. -/
theorem test_decode_manHighA1 :
    decode 0x00000000000000000000000000000000000000000005#176 = .ok (.manHighA1) := by decide

/-- `MAN.HighB.0`. -/
theorem test_decode_manHighB0 :
    decode 0x00000000000000000000000000070000000000000006#176 = .ok (.manHighB0 7#64 false) := by decide

/-- `MAN.HighB.1`. -/
theorem test_decode_manHighB1 :
    decode 0x01000000000000000000000000070000000000000007#176 = .ok (.manHighB1 7#64 true) := by decide

/-- `FRM.SHIFT`. -/
theorem test_decode_frmShift :
    decode 0x01060000000100000000000000070000000000000001#176 = .ok (.frmShift 1#8 7#64 true) := by decide

/-- `FRM.DETECT`. -/
theorem test_decode_frmDetect :
    decode 0x01070000000000000000000000070000000000000000#176 = .ok (.frmDetect 7#64 true) := by decide

/-- `CRC.CHECK`. -/
theorem test_decode_crcCheck :
    decode 0x01000000000000000000000003E8FFFE803039A0163F#176 = .ok (.crcCheck 0xFFFE803039A0163F#64 1000#64 true) := by
  decide

/-- `CRC.POLY.2GIG`. -/
theorem test_decode_crcPoly2gig :
    decode 0x0008000000000000000000000000000000000000000A#176 = .ok (.crcPoly2gig 10#4) := by decide

/-- `CRC.POLY.DEFAULT`. -/
theorem test_decode_crcPolyDefault :
    decode 0x00080000000000000000000000000000000000000008#176 = .ok (.crcPolyDefault 8#4) := by decide

/-- `RXH.MARK`. -/
theorem test_decode_rxhMark :
    decode 0x01090000000100000000000004060000000000000000#176 = .ok (.rxhMark true ⟨1030#64, true⟩) := by decide

/-- `DEV.UPDATE`. -/
theorem test_decode_devUpdate :
    decode 0x010A0A00303900000000000003E80000000000000000#176 = .ok (.devUpdate 12345#20 0xA0#8 ⟨1000#64, true⟩) := by decide

/-- `DEV.NOTIFY`. -/
theorem test_decode_devNotify :
    decode 0x010B0A00303900000000000004240000000000000000#176 = .ok (.devNotify 12345#20 0xA0#8 ⟨1060#64, true⟩) := by decide

/-- `SWEEP`. -/
theorem test_decode_sweep :
    decode 0x010C000000000000000000006D610000000000000001#176 = .ok (.sweep ⟨28001#64, true⟩) := by decide

/-- A form that does not exist. -/
theorem test_decode_unknown_form :
    decode 0x000D0000000000000000000000000000000000000000#176 = .error .unknownForm := by decide

/-- A selector of no row. -/
theorem test_decode_unknown_selector :
    decode 0x00000000000000000000000000000000000000000008#176 = .error .unknownSelector := by decide

/-- `RESET` with an operand. -/
theorem test_decode_reserved_bits :
    decode 0x00000000000100000000000000000000000000000003#176 = .error .reservedBits := by decide

/-! ### One step: the worked examples of the rules -/

/-- The state one operation leaves. -/
def after (i : Instr) (s : State) : State := runTrace [i] s

/-- A record as rule R165's worked example leaves it: first sighting with `0xA0` at 1000, notified. -/
def seen : DeviceState := ⟨0xA0#8, false, true, true, false, 0xA0#8, 1000#64, 0#64⟩

/-- A running block that knows one device. -/
def oneDevice : State := { State.reset with registry := [(12345#20, seen)] }

/-- A block halted at `RXFAIL`. -/
def halted : State := { State.reset with halted := true, faultCause := 2#2 }

/-- A block one mid-bit sample away from dispatching `0xFFFE803039A0163F`: its last bit is pending (rule R140's
worked example). -/
def pending : State := { State.reset with frame := 0x7FFF40181CD00B1F#64, phase := .highB }

/-- Rule R90: from 0, one sample of 1.0. -/
theorem test_filter_first : (after (.envFilter 0x3F800000#32) State.reset).smoothed = 0x3E99999A#32 := by decide

/-- Rule R93: the second row of the table. -/
theorem test_filter_second : (after (.envFilter 0x3F800000#32)
    { State.reset with smoothed := 0x3E99999A#32 }).smoothed = 0x3F028F5C#32 := by decide

/-- Rule R90 case (b): the smallest subnormal stays. -/
theorem test_filter_smallest_subnormal : smoothe hardware 1#32 0#32 = 1#32 := by decide

/-- Rule R91: the sixteenth sample is not forwarded. -/
theorem test_decim_sixteenth :
    (after (.envDecim 0#64 true) { State.reset with decimCount := 15 }).decimCount = 16 ∧
    (after (.envDecim 0#64 true) { State.reset with decimCount := 15 }).sinceEdge = 0 := by decide

/-- Rule R223's worked example: the seventeenth sample of 1.0. -/
theorem test_sample_seventeenth :
    let t := after (.sample 0x3F800000#32 1000#64 true) { State.reset with smoothed := 0x3F7F2634#32, decimCount := 16 }
    t.smoothed = 0x3F7F678B#32 ∧ t.decimCount = 0 ∧ t.ookMax = 0x3F7F678B#32 ∧ t.lastChip = 1#1 ∧ t.sinceEdge = 1 ∧
      t.output = [] := by decide

/-- Rule R103's table: `0x3E800000` equals the threshold and gives chip 0. -/
theorem test_peak_equal_is_chip_0 :
    (after (.peakForward 0x3E800000#32 0#64 true) State.reset).lastChip = 0#1 ∧
    (after (.peakForward 0x3E800000#32 0#64 true) State.reset).ookMax = 0x3EAAAAAB#32 := by decide

/-- Rule R103's table: `0x3FB504F2` is clamped and becomes the peak. -/
theorem test_peak_clamp :
    (after (.peakForward 0x3FB504F2#32 0#64 true) State.reset).lastChip = 1#1 ∧
    (after (.peakForward 0x3FB504F2#32 0#64 true) State.reset).ookMax = 0x3F800000#32 := by decide

/-- Rule R112: the fourth chip of a run is a mid-bit sample; LowA with 1 goes to HighB (rule R122). -/
theorem test_sync_fourth_chip :
    (after (.syncChip 1#8 0#64 true) { State.reset with lastChip := 1#1, sinceEdge := 3 }).phase = .highB := by decide

/-- Rule R110: chip 2 is ignored. -/
theorem test_sync_ignores_2 :
    (after (.syncChip 2#8 0#64 true) { State.reset with sinceEdge := 3 }).sinceEdge = 3 := by decide

/-- Rule R120's worked example: HighB with 0 shifts a 1 and goes to LowA. -/
theorem test_man_step_highB_0 :
    let t := after (.manStep 0#8 0#64 true) { State.reset with phase := .highB }
    t.frame = 1#64 ∧ t.phase = .lowA := by decide

/-- Rule R127: a mid-bit sample of 3 is ignored. -/
theorem test_man_step_ignores_3 :
    let t := after (.manStep 3#8 0#64 true) { State.reset with phase := .highB }
    t.frame = 0#64 ∧ t.phase = .highB := by decide

/-- Rule R121, the rows of the A states. -/
theorem test_man_rows_A :
    (after .manLowA0 State.reset).phase = .lowA ∧
    (after .manLowA1 State.reset).phase = .highB ∧
    (after .manHighA0 { State.reset with phase := .highA }).phase = .lowB ∧
    (after .manHighA1 { State.reset with phase := .highA }).phase = .highA := by decide

/-- Rule R121, the rows of LowB: a 0 is shifted. -/
theorem test_man_rows_lowB :
    let s : State := { State.reset with phase := .lowB, frame := 1#64 }
    (after (.manLowB0 0#64 true) s).phase = .lowA ∧ (after (.manLowB0 0#64 true) s).frame = 2#64 ∧
    (after (.manLowB1 0#64 true) s).phase = .highA ∧ (after (.manLowB1 0#64 true) s).frame = 2#64 := by decide

/-- Rule R121, the rows of HighB: a 1 is shifted. -/
theorem test_man_rows_highB :
    let s : State := { State.reset with phase := .highB, frame := 1#64 }
    (after (.manHighB0 0#64 true) s).phase = .lowA ∧ (after (.manHighB0 0#64 true) s).frame = 3#64 ∧
    (after (.manHighB1 0#64 true) s).phase = .highA ∧ (after (.manHighB1 0#64 true) s).frame = 3#64 := by decide

/-- Rule R140's second worked example: the top bit is lost. -/
theorem test_shift_loses_top_bit :
    (after (.frmShift 1#8 0#64 true) { State.reset with frame := 0x8000000000000000#64 }).frame = 1#64 := by decide

/-- Rule R142's second worked example: no match. -/
theorem test_detect_no_match :
    (after (.frmDetect 0#64 true) { State.reset with frame := 0x1FFFC00000000000#64 }).frame = 0x1FFFC00000000000#64 := by
  decide

/-- Rule R142's first worked example: handed over, then cleared. -/
theorem test_detect_match :
    let t := after (.frmDetect 1000#64 true) { State.reset with frame := 0xFFFE803039A0163F#64 }
    t.frame = 0#64 ∧ t.payloadCount = 1#32 ∧ t.errorCount = 0#32 ∧ memRead t.registry 12345#20 = some seen := by
  decide

/-- Rule R159: the remainders of four payloads. -/
theorem test_remainders :
    crcRemainder hardware 0xFFFE203039A0EFF0#64 = 0#48 ∧ crcRemainder hardware 0xFFFE803039A1163F#64 = 0x8005#48 ∧
    crcRemainder hardware 0xFFFE803038A0163F#64 = 0x8603#48 ∧
    crcRemainder hardware 0xFFFEA03039A0EFF0#64 = 0x4090#48 := by decide

/-- Rule R155: a payload that fails the CRC is counted and reported, the clock unread. -/
theorem test_crc_failure :
    let t := after (.crcCheck 0xFFFE803039A1163F#64 0#64 false) State.reset
    t.output = [.crcFail 0xFFFE803039A1163F#64 1#32 1#32] ∧ t.halted = false ∧ t.registry = [] := by decide

/-- Rule R66: brand 2 selects the 2GIG polynomial. -/
theorem test_poly_2gig : (after (.crcPoly2gig 2#4) State.reset).selectedPoly = some 0x18050#17 := by decide

/-- Rule R66: brand 8 selects the default polynomial. -/
theorem test_poly_default : (after (.crcPolyDefault 8#4) State.reset).selectedPoly = some 0x18005#17 := by decide

/-- Rule R201's worked example: 30 s after the last publish, unchanged: nothing. -/
theorem test_mark_suppressed :
    (after (.rxhMark true ⟨1030#64, true⟩) { State.reset with rxGood := true, rxLastPublishTime := 1000#64 }).output = [] := by
  decide

/-- Rule R201's worked example: 61 s after it. -/
theorem test_mark_heartbeat :
    let t := after (.rxhMark true ⟨1061#64, true⟩) { State.reset with rxGood := true, rxLastPublishTime := 1000#64 }
    t.output = [.publish .rxStatus 0#20 .ok] ∧ t.rxLastPublishTime = 1061#64 := by decide

/-- Rule R203's worked example. -/
theorem test_rxfail :
    let t := after (.rxfail 5000#64 true) { State.reset with rxGood := true, rxLastPublishTime := 4990#64 }
    t.output = [.publish .rxStatus 0#20 .failed] ∧ t.rxLastPublishTime = 5000#64 ∧ t.rxGood = false := by decide

/-- Rule R203: without a clock, cause 2. -/
theorem test_rxfail_without_clock : (after (.rxfail 0#64 false) State.reset).faultCause = 2#2 := by decide

/-- Rule R165's worked example, notified as rule R175 says. -/
theorem test_update_first_sighting :
    let t := after (.devUpdate 12345#20 0xA0#8 ⟨1000#64, true⟩) State.reset
    memRead t.registry 12345#20 = some seen ∧
    t.output = [.publish .alarm 12345#20 .ok, .publish .status 12345#20 .tamperLowBatt,
      .deviceList 12345#20 [⟨12345#20, false, true, true, false⟩]] := by decide

/-- Rule R169: `0xB0` over a baseline of `0xA0` is an alarm. -/
theorem test_update_alarm :
    (memRead (after (.devUpdate 12345#20 0xB0#8 ⟨1010#64, true⟩) oneDevice).registry 12345#20) =
      some ⟨0xA0#8, true, true, true, false, 0xB0#8, 1010#64, 1010#64⟩ := by decide

/-- Rule R174's worked example: exactly 60 s does not pass. -/
theorem test_notify_at_60 : (after (.devNotify 12345#20 0xA0#8 ⟨1060#64, true⟩) oneDevice).output = [] := by decide

/-- Rule R174's worked example: 61 s passes. -/
theorem test_notify_at_61 :
    (after (.devNotify 12345#20 0xA0#8 ⟨1061#64, true⟩) oneDevice).output.length = 3 := by decide

/-- Rule R47: DEV.NOTIFY on its own creates no entry, whatever record it reads. -/
theorem test_notify_creates_nothing :
    (memRefresh oneDevice.registry 7#20 seen) = oneDevice.registry := by decide

/-- Rule R85: `RXH.MARK` with `NOCLOCK` runs; it raises nothing of its own (rule R201). -/
theorem test_mark_noclock :
    let t := after (.rxhMark true (withoutClock 1000#64)) State.reset
    t.halted = false ∧ t.rxGood = true := by decide

/-- Rule R190's worked example. -/
theorem test_sweep :
    let s : State := { State.reset with
      registry := [(111#20, seen), (222#20, { seen with lastUpdateTime := 28000#64 })] }
    (after (.sweep ⟨28001#64, true⟩) s).output = [.publish .status 111#20 .timeout] := by decide

/-- Rule R191: exactly 27000 s is no timeout. -/
theorem test_sweep_at_27000 : (after (.sweep ⟨28000#64, true⟩) oneDevice).output = [] := by decide

/-- Rule R270: `RESET` of a halted block. -/
theorem test_reset_of_halted : after .reset halted = State.reset := by decide

/-- Rule R72: the idle code. -/
theorem test_idle : after .idle oneDevice = oneDevice := by decide

/-- Rule R79's example. -/
theorem test_topic : topic hardware .alarm 12345#20 = "/security/sensors345/12345/alarm" := by decide

/-- Rules R8 and R19: narrower widths of time and counters wrap earlier. -/
theorem test_narrow_widths :
    elapsed { hardware with timeWidth := 8 } 0x103#64 0x1#64 = 2#64 ∧
    countUp { hardware with counterWidth := 4 } 15#32 = 0#32 ∧ countUp hardware 15#32 = 16#32 := by decide

/-- Rule R85: an expansion carries its `NOCLOCK`, and a cell any chip. -/
theorem test_trace_noclock :
    traceCell 2#8 (withoutClock 5#64) = List.replicate 8 (.syncChip 2#8 5#64 false) := by decide

/-- Rule R280, log 21: −0.0 is outside the duty on samples, +0.0 is inside. -/
theorem test_zero_samples : sampleInDomain 0x80000000#32 = false ∧ sampleInDomain 0#32 = true := by decide

/-- Rule R85: `FRAME` of the first row of rule R159. -/
theorem test_frame_word : frameWord hardware 8#4 12345#20 0xA0#8 = 0xFFFE803039A0163F#64 := by decide

/-- Rule R64: `present` is bit 148. -/
theorem test_table_entry : (tableEntry oneDevice.registry 12345#20).getLsbD 148 = true ∧
    tableEntry oneDevice.registry 1#20 = 0#149 := by decide

/-- Rule R210: the smallest entry of the lookup is about 0.00442 and the largest about 1.40979. -/
theorem test_magnitude_range :
    sampleInDomain (magnitudeOf 127#8 127#8) = true ∧
    fGt (magnitudeOf 127#8 127#8) 0x3B90ABB4#32 = true ∧ fGt 0x3B90FF97#32 (magnitudeOf 127#8 127#8) = true ∧
    fGt (magnitudeOf 255#8 255#8) 0x3FB472B0#32 = true ∧ fGt 0x3FB475F7#32 (magnitudeOf 255#8 255#8) = true := by decide

/-- A presented word runs on the next step. -/
theorem test_fetch_word_runs : (State.reset.withFetchWord 3 5).input = [5#176] ∧
    decodeTableWord 3 5 = some .manHighA1 := by decide


/-! ### Witnesses: states and operands that meet the hypotheses of the statements, clause by clause -/

/-- A running block that knows two devices: the first silent since 1000, the second notified at 28000 and alarmed. -/
def twoDevices : State := { State.reset with
  registry := [(111#20, seen), (12345#20, { seen with alarm := true, lastUpdateTime := 28000#64 })] }

theorem witness_HaltedBlockRunsOnlyReset : halted.halted = true ∧ (Instr.sample 0#32 0#64 false) ≠ .reset := by decide

theorem witness_StepRunsThePresentedOperation :
    (({ State.reset with input := [3#176] } : State).input = 3#176 :: [] ∧ decode 3#176 = .ok .reset) ∧
    State.reset.input = [] ∧
    (({ State.reset with input := [8#176] } : State).input = 8#176 :: [] ∧ decode 8#176 = .error .unknownSelector) ∧
    decodeTableWord 64 0xFFFE000000000000 = some (.crcCheck 0xFFFE000000000000#64 0#64 false) := by decide

theorem witness_DecodeOfEncode :
    (Instr.crcCheck 0xFFFE000000000000#64 0#64 true).wellFormed = true ∧
    (Instr.crcCheck 0xFFFEFFFFFFFFFFFF#64 0#64 true).wellFormed = true ∧
    (Instr.devUpdate 0xFFFFF#20 0xFF#8 ⟨0xFFFFFFFFFFFFFFFF#64, true⟩).wellFormed = true := by decide

theorem witness_EncodeOfDecode :
    decode 0x010A0FFFFFFFFFFFFFFFFFFFFFFF0000000000000000#176 =
      .ok (.devUpdate 0xFFFFF#20 0xFF#8 ⟨0xFFFFFFFFFFFFFFFF#64, true⟩) := by decide

theorem witness_StepKeepsTheInvariant : State.reset.Inv ∧ ∃ t, step State.reset = .next t :=
  ⟨⟨by decide, by decide, by decide, by decide, by decide⟩, _, rfl⟩

theorem witness_BaselinesNeverRiseAndEntriesStay :
    (Instr.devUpdate 12345#20 0x30#8 ⟨1010#64, true⟩) ≠ .reset ∧
    (∃ t, exec (.devUpdate 12345#20 0x30#8 ⟨1010#64, true⟩) oneDevice = .next t) ∧
    memRead oneDevice.registry 12345#20 = some seen := ⟨by decide, ⟨_, rfl⟩, by decide⟩

theorem witness_FaultingStepProducesNothing :
    State.reset.halted = false ∧
    (∃ t, exec (.crcCheck 0xFFFE803039A0163F#64 0#64 false) State.reset = .next t ∧ t.halted = true) ∧
    (∃ t, exec (.rxfail 0#64 false) State.reset = .next t ∧ t.halted = true) :=
  ⟨by decide, ⟨_, rfl, by decide⟩, ⟨_, rfl, by decide⟩⟩

/-- `pending`, one chip before the mid-bit sample that dispatches, with the sixteenth sample taken. -/
def lastSample : State := { pending with decimCount := 16, lastChip := 0#1, sinceEdge := 3 }

theorem witness_StateAfterAnAbandonedSample :
    lastSample.halted = false ∧ ∃ t, exec (.sample 0#32 0#64 false) lastSample = .next t ∧ t.halted = true :=
  ⟨by decide, _, rfl, by decide⟩

theorem witness_OnlyTheOwnersWrite :
    ∃ t, exec (.sample 0#32 1000#64 true) lastSample = .next t ∧ t.registry ≠ lastSample.registry ∧
      t.frame ≠ lastSample.frame ∧ t.phase ≠ lastSample.phase ∧ t.payloadCount ≠ lastSample.payloadCount :=
  ⟨_, rfl, by decide⟩

theorem witness_TimeIsReadOnlyByAValidPayload :
    (∃ t, exec (.sample 0#32 0#64 false) State.reset = .next t ∧ t.payloadCount = State.reset.payloadCount) ∧
    (∃ t, exec (.sample 0#32 0#64 false) { lastSample with frame := 0x7FFF40181CD08B1F#64 } = .next t ∧
      t.errorCount ≠ 0#32) := ⟨⟨_, rfl, by decide⟩, ⟨_, rfl, by decide⟩⟩

/-- For every statement whose one hypothesis on the state is that it runs: `FilterUpdatesSmoothed`,
`SampleIsFilterThenDecimator`, `PeakForwardDecidesTheChip`, `ManRowsOfTheAStates`, `ConstantLevelSettles`,
`BrandSelectsThePolynomial`, `RxMarkPublishesOnChangeOrAfterAMinute`, `RxFailMarksBadOrHalts`,
`UpdateStoresThenNotifies`. -/
theorem witness_running :
    halted.halted = true ∧ State.reset.halted = false ∧ oneDevice.halted = false ∧ lastSample.halted = false := by
  decide

theorem witness_NaNStaysInTheFilter :
    State.reset.halted = false ∧ fIsNaN 0x7FC00000#32 = true ∧ fIsNaN 0xFF800001#32 = true ∧
    fIsNaN ({ State.reset with smoothed := 0x7FC00000#32 } : State).smoothed = true := by decide

theorem witness_SumsAndProductsCommute :
    fIsNaN (fAdd 0x3F800000#32 1#32) = false ∧ fIsNaN (fMul 0x7F800000#32 0x3F800000#32) = false := by decide

theorem witness_DecimatorForwardsEverySeventeenth :
    ({ State.reset with decimCount := 15 } : State).decimCount + 1 ≠ 17 ∧ lastSample.decimCount + 1 = 17 ∧
    lastSample.halted = false := by decide

theorem witness_PeakStaysInRange :
    peakInRange State.reset.ookMax ∧ (∃ t, exec (.peakForward 0x7FC00000#32 0#64 true) State.reset = .next t) ∧
    peakInRange ({ State.reset with ookMax := 0x3F800000#32 } : State).ookMax :=
  ⟨by unfold peakInRange; decide, ⟨_, rfl⟩, by unfold peakInRange; decide⟩

theorem witness_NothingBelowTheFloorIsAChip :
    peakInRange 0x3EAAAAAB#32 ∧ fGt 0x3E800000#32 0x3E800000#32 = false ∧ fGt 0x7FC00000#32 0x3E800000#32 = false := by
  unfold peakInRange; decide

theorem witness_StickyValuesGiveAConstantChip : peakInRange 0x3F000000#32 ∧ fIsNaN 0xFFFFFFFF#32 = true := by
  unfold peakInRange; decide

theorem witness_SyncChipCountsAndSamples :
    lastSample.halted = false ∧ ((2#8 : Byte) ≠ 0#8 ∧ (2#8 : Byte) ≠ 1#8) ∧ (State.reset.sinceEdge + 1) % 8 ≠ 4 ∧
    (lastSample.sinceEdge + 1) % 8 = 4 := by decide

theorem witness_RunLengthLaw : (1#1 ≠ (0#1 : BitVec 1) ∨ (7 : Nat) = 0) ∧ ((0#1 : BitVec 1) ≠ 0#1 ∨ (0 : Nat) = 0) := by
  decide

theorem witness_ManStepInTheAStates :
    ((0xFF#8 : Byte) ≠ 0#8 ∧ (0xFF#8 : Byte) ≠ 1#8) ∧ State.reset.halted = false ∧ State.reset.phase = .lowA ∧
    ({ State.reset with phase := .highA } : State).phase = .highA := by decide

theorem witness_ManStepInTheBStates :
    ((0#8 : Byte) = 0#8 ∨ (0#8 : Byte) = 1#8) ∧ ((1#8 : Byte) = 0#8 ∨ (1#8 : Byte) = 1#8) ∧ pending.halted = false ∧
    pending.phase = .highB ∧ ({ State.reset with phase := .lowB } : State).phase = .lowB := by decide

theorem witness_ManRowsOfTheBStates :
    pending.halted = false ∧ pending.phase = .highB ∧ pending.phase ≠ .lowB ∧
    ({ State.reset with phase := .lowB } : State).phase = .lowB ∧
    ({ State.reset with phase := .lowB } : State).phase ≠ .highB := by decide

theorem witness_ChipsOfAPayloadReachTheValidator :
    syncOf 0xFFFE000000000000#64 = 0xFFFE#16 ∧ syncOf 0xFFFEFFFFFFFFFFFF#64 = 0xFFFE#16 := by decide

theorem witness_ShiftInsertsTheBit :
    State.reset.halted = false ∧ ((2#8 : Byte) ≠ 0#8 ∧ (2#8 : Byte) ≠ 1#8) ∧
    syncOf (State.reset.frame <<< 1 ||| (1#8 : Byte).setWidth 64) ≠ 0xFFFE#16 := by decide

theorem witness_RegisterHoldsTheLast64Bits : (List.replicate 64 true).length = 64 ∧ 63 < 64 ∧ 0 < 64 := by decide

theorem witness_DetectHandsOverThenClears :
    (0xFFFF803039A0163F#64 &&& 0xFFFF000000000000#64 ≠ 0xFFFE000000000000#64) ∧
    (0xFFFE803039A0163F#64 &&& 0xFFFF000000000000#64 = 0xFFFE000000000000#64) := by decide

theorem witness_CrcCheckVerdicts :
    State.reset.halted = false ∧ brandOf 0xFFFE803039A0163F#64 = 8#4 ∧
    divisionLoop 0x18005#17 32 (nonsync 0xFFFE803039A1163F#64) ≠ 0#48 ∧
    divisionLoop 0x18005#17 32 (nonsync 0xFFFE803039A0163F#64) = 0#48 ∧
    brandOf 0xFFFEA03039A0AF60#64 = 10#4 ∧
    divisionLoop 0x18050#17 32 (nonsync 0xFFFEA03039A0AF60#64) = 0#48 := by decide

theorem witness_RemainderHasSixteenBits :
    (0x18005#17 : Poly).getLsbD 16 = true ∧ (0x10000#17 : Poly).getLsbD 16 = true := by decide

theorem witness_SingleBitFlipIsDetected :
    crcValid hardware 0xFFFE803039A0163F#64 = true ∧ 47 < 48 ∧ 0 < 48 ∧
    polyOf hardware (brandOf (0xFFFE803039A0163F#64 ^^^ (1#64 <<< 47))) =
      polyOf hardware (brandOf 0xFFFE803039A0163F#64) ∧
    polyOf hardware (brandOf (0xFFFE803039A0163F#64 ^^^ (1#64 <<< 0))) =
      polyOf hardware (brandOf 0xFFFE803039A0163F#64) := by decide

theorem witness_ValidTwoGigPayloadsEndInZeros :
    brandOf 0xFFFE203039A0EFF0#64 = 2#4 ∧ crcValid hardware 0xFFFE203039A0EFF0#64 = true ∧
    brandOf 0xFFFEA54321804640#64 = 10#4 ∧ crcValid hardware 0xFFFEA54321804640#64 = true := by decide

theorem witness_ErrorsNeverExceedPayloads :
    ∃ t, exec (.crcCheck 0xFFFE803039A1163F#64 0#64 true)
        { State.reset with payloadCount := 0xFFFFFFFE#32, errorCount := 0xFFFFFFFE#32 } = .next t ∧
      t.errorCount = 0xFFFFFFFF#32 := ⟨_, rfl, by decide⟩

theorem witness_UpdateTouchesOneEntry :
    (∃ t, exec (.devUpdate 12345#20 0xA0#8 ⟨30000#64, true⟩) twoDevices = .next t) ∧ 111#20 ≠ (12345#20 : Serial) ∧
    memRead twoDevices.registry 111#20 = some seen ∧ 7#20 ≠ (12345#20 : Serial) ∧
    memRead twoDevices.registry 7#20 = none := ⟨⟨_, rfl⟩, by decide⟩

theorem witness_NotifyGateDecides :
    oneDevice.halted = false ∧ memRead oneDevice.registry 12345#20 = some seen ∧
    ¬ (0xA0#8 ≠ seen.lastRawState ∨ 60#64 < 1060#64 - seen.lastUpdateTime) ∧
    60#64 < 1061#64 - seen.lastUpdateTime ∧ 0xA1#8 ≠ seen.lastRawState := by decide

theorem witness_NotifyOfAnAbsentSerialGoesOn :
    oneDevice.halted = false ∧ memRead oneDevice.registry 7#20 = none ∧ 8#20 ≠ (7#20 : Serial) ∧
    memRead oneDevice.registry 8#20 = none := by decide

theorem witness_SweepFlagsTheSilentDevices : twoDevices.halted = false ∧ twoDevices.registry.wf := by decide

theorem witness_SweepOrderDoesNotMatter :
    twoDevices.registry.wf ∧ (∀ l, (hardware.sweepOrder l).Perm l) ∧
    (∀ l, (({ hardware with sweepOrder := List.reverse } : Config).sweepOrder l).Perm l) ∧
    hardware.sensorTimeout = ({ hardware with sweepOrder := List.reverse } : Config).sensorTimeout ∧
    hardware.timeWidth = ({ hardware with sweepOrder := List.reverse } : Config).timeWidth :=
  ⟨by decide, fun _ => .refl _, fun l => List.reverse_perm l, rfl, rfl⟩

theorem witness_NotifiedDeviceIsNotTimedOut :
    twoDevices.halted = false ∧
    ∃ t, exec (.devUpdate 12345#20 0xA1#8 ⟨30000#64, true⟩) twoDevices = .next t ∧ t.output ≠ [] :=
  ⟨by decide, _, rfl, by decide⟩

theorem witness_NotificationDedup :
    State.reset.halted = false ∧
    ∃ t, exec (.devUpdate 12345#20 0xA0#8 ⟨1000#64, true⟩) State.reset = .next t ∧ t.output ≠ [] ∧
      (∃ u, exec (.devUpdate 12345#20 0xA0#8 ⟨1060#64, true⟩) t = .next u ∧ u.output = []) ∧
      (∃ u, exec (.devUpdate 12345#20 0xA0#8 ⟨1061#64, true⟩) t = .next u ∧ u.output ≠ []) :=
  ⟨by decide, _, rfl, by decide, ⟨_, rfl, by decide⟩, ⟨_, rfl, by decide⟩⟩

theorem witness_FirstSightingNearTheEpoch :
    State.reset.halted = false ∧ memRead State.reset.registry 12345#20 = none ∧ ¬ 60#64 < (60#64 : Time) ∧
    60#64 < (61#64 : Time) := by decide

theorem witness_AlarmEdge :
    oneDevice.halted = false ∧ memRead oneDevice.registry 7#20 = none ∧
    memRead oneDevice.registry 12345#20 = some seen := by decide

theorem witness_EveryPublishEventIsLegal :
    ∃ t, exec (.devUpdate 12345#20 0xA1#8 ⟨30000#64, true⟩) twoDevices = .next t ∧
      .publish .status 111#20 .timeout ∈ t.output := ⟨_, rfl, by decide⟩

theorem witness_SampleEventsInOrder :
    lastSample.registry.wf ∧ ∃ t, exec (.sample 0#32 1000#64 true) lastSample = .next t ∧
      t.output.map Event.isPublish = [true, true, true, false] := ⟨by decide, _, rfl, by decide⟩

end Sys2Proof.Tests
end

section
/-! SUPPORT. The reset state (rules R29 and R270). -/

namespace Sys2Proof.Proofs

open Sys2Proof Sys2Proof.Machine

/-- The quotient that rule R7 derives, rounded once. -/
@[simp] theorem hardware_peakFloor : hardware.peakFloor = 0x3EAAAAAB#32 := by decide

@[simp] theorem memRead_nil (serial : Serial) : memRead [] serial = none := rfl

/-- The peak starts at its floor (rule R29). -/
theorem reset_ookMax : State.reset.ookMax = 0x3EAAAAAB#32 := by
  rw [State.reset, hardware_peakFloor]

/-- The record of a freshly created entry, given beside the table of rule R29. -/
theorem freshDevice_hardware :
    freshDevice hardware = ⟨0xFF#8, false, false, false, false, 0x00#8, 0#64, 0#64⟩ := rfl

theorem exec_reset (s : State) : exec .reset s = .next (resetBlock hardware s.startStep) := rfl

/-- `RESET` of any state leaves the reset state, but for the two fields that are no state of the block: the operations
the host still presents and the count of free reads (rule R270). -/
theorem resetBlock_startStep (s : State) :
    resetBlock hardware s.startStep = { State.reset with input := s.input, freeReads := s.freeReads } := by
  simp only [resetBlock, State.reset, startStep_input, startStep_output, startStep_selectedPoly, startStep_freeReads]

theorem exec_reset_reset : exec .reset State.reset = .next State.reset := by
  rw [exec_reset, resetBlock_startStep]

/-- Settles O2: the table of rule R29 row by row, where only the peak floor is computed, and `RESET` of a state that
has the input and the free reads of the reset state already. -/
theorem resetStateIsThatOfTheTable : Obligations.ResetStateIsThatOfTheTable := by
  unfold Obligations.ResetStateIsThatOfTheTable
  have noSerial : ∀ serial, memRead State.reset.registry serial = none := memRead_nil
  exact ⟨rfl, rfl, reset_ookMax, rfl, rfl, rfl, rfl, rfl, rfl, noSerial, rfl, rfl, rfl, rfl,
    freshDevice_hardware, exec_reset_reset⟩

end Sys2Proof.Proofs
end

section
/-! SUPPORT. The ports (rules R72, R86) and the frame detector (rules R67, R142). -/

namespace Sys2Proof.Proofs

open Sys2Proof Sys2Proof.Machine

/-- `rst` asserted: the reset is presented and the code on `op` is dropped (rules R86, R252). -/
theorem operation_of_rst {p : InputPorts} (h : p.rst = true) : p.operation = .reset := by
  rw [InputPorts.operation, if_pos h]

/-- `rst` not asserted: the codes of rule R72. -/
theorem operation_of_not_rst {p : InputPorts} (h : p.rst = false) :
    p.operation =
      if p.op = 1#2 then .sample p.sample p.now p.nowValid
      else if p.op = 2#2 then .rxfail p.now p.nowValid
      else if p.op = 3#2 then .reset
      else .idle := by
  rw [InputPorts.operation, h, if_neg Bool.false_ne_true]

/-- Settles O60: `rst` first, then one clause for each code. -/
theorem portsPresentTheOperation : Obligations.PortsPresentTheOperation := by
  unfold Obligations.PortsPresentTheOperation
  intro op sample now nowValid
  exact ⟨operation_of_rst rfl, operation_of_not_rst rfl, operation_of_not_rst rfl, operation_of_not_rst rfl,
    operation_of_not_rst rfl⟩

/-- The mask of rule R67 keeps the sync bits in their place and clears the other 48. -/
theorem and_syncMask (frame : BitVec 64) : frame &&& 0xFFFF000000000000#64 = syncOf frame ++ 0#48 := by
  have hmask : 0xFFFF000000000000#64 = BitVec.allOnes 16 ++ 0#48 := by decide
  rw [hmask]
  refine BitVec.eq_of_getLsbD_eq fun k hk => ?_
  rw [BitVec.getLsbD_and, BitVec.getLsbD_append, BitVec.getLsbD_append, BitVec.getLsbD_allOnes]
  by_cases hlow : k < 48
  · simp [hlow]
  · have hfield : k - 48 < 16 := by omega
    have hplace : 48 + (k - 48) = k := by omega
    simp [hlow, syncOf, hfield, hplace]

/-- The mask and match of rule R67 compare the sync bits with the sync pattern. -/
theorem syncOf_eq_syncPattern_iff (frame : BitVec 64) :
    syncOf frame = hardware.syncPattern ↔ frame &&& 0xFFFF000000000000#64 = 0xFFFE000000000000#64 := by
  have hmatch : 0xFFFE000000000000#64 = hardware.syncPattern ++ 0#48 := by decide
  rw [and_syncMask, hmatch]
  refine ⟨congrArg (· ++ 0#48), fun h => ?_⟩
  have hfields := congrArg (BitVec.extractLsb' 48 16) h
  rwa [BitVec.extractLsb'_append_eq_left, BitVec.extractLsb'_append_eq_left] at hfields

theorem exec_crcCheck_running {s : State} (h : s.halted = false) (p : Payload) (now : Time) (nowValid : Bool) :
    exec (.crcCheck p now nowValid) s = .next (crcCheck hardware p ⟨now, nowValid⟩ s.startStep).state :=
  congrArg _ (runCall_running h _)

theorem exec_frmDetect_running {s : State} (h : s.halted = false) (now : Time) (nowValid : Bool) :
    exec (.frmDetect now nowValid) s = .next (frmDetect hardware ⟨now, nowValid⟩ s.startStep).state :=
  congrArg _ (runCall_running h _)

theorem frmDetect_of_no_match {cfg : Config} {s : State} (h : syncOf s.frame ≠ cfg.syncPattern) (clock : Clock) :
    frmDetect cfg clock s = .returned s := by
  rw [frmDetect, if_neg h]

/-- A matching register is cleared after the hand-over exactly if the validator leaves the block running: it is the
fault that halts the block which also abandons the clearing (rules R142, R244). -/
theorem frmDetect_state_of_match {cfg : Config} {s : State} (hrun : s.halted = false)
    (hsync : syncOf s.frame = cfg.syncPattern) (clock : Clock) :
    (frmDetect cfg clock s).state =
      if (crcCheck cfg s.frame clock s).state.halted then (crcCheck cfg s.frame clock s).state
      else { (crcCheck cfg s.frame clock s).state with frame := 0#64 } := by
  rw [crcCheck_halted cfg s.frame clock hrun]
  rcases frmDetect_cases cfg clock s with ⟨hno, -⟩ | ⟨-, hreturns, t, hcheck, hdetect⟩ | ⟨-, hfault, t, hcheck, hdetect⟩
  · exact absurd hsync hno
  · rw [hreturns, hdetect, hcheck, if_neg Bool.false_ne_true, returned_state, returned_state]
  · rw [hfault, hdetect, hcheck, if_pos rfl]

/-- Settles O36: the match of rule R67 decides, and on a match the state `CRC.CHECK` leaves is cleared unless halted. -/
theorem detectHandsOverThenClears : Obligations.DetectHandsOverThenClears := by
  unfold Obligations.DetectHandsOverThenClears
  intro s now nowValid hrun
  rw [exec_frmDetect_running hrun, ne_eq, ← syncOf_eq_syncPattern_iff]
  refine ⟨fun hno => ?_, fun hsync => ⟨_, exec_crcCheck_running hrun _ _ _, ?_⟩⟩
  · rw [frmDetect_of_no_match (s := s.startStep) hno, returned_state, State.startStep]
  · rw [frmDetect_state_of_match (s := s.startStep) hrun hsync, startStep_frame]

end Sys2Proof.Proofs
end

section
/-! SUPPORT. The envelope stage (rules R90, R91, R92): the smoothing filter and the decimator. -/

namespace Sys2Proof.Proofs

open Sys2Proof Sys2Proof.Machine

/-- The difference that decision D4 makes a constant, rounded once. -/
@[simp] theorem hardware_oneMinusAlpha : hardware.oneMinusAlpha = 0x3E99999A#32 := by decide

/-- The filter with the two weights of rule R90. -/
theorem smoothe_hardware (smoothed m : Binary32) :
    smoothe hardware smoothed m = fAdd (fMul 0x3F333333#32 smoothed) (fMul 0x3E99999A#32 m) := by
  rw [smoothe, hardware_oneMinusAlpha]
  rfl

theorem exec_envFilter_running {s : State} (h : s.halted = false) (m : Binary32) :
    exec (.envFilter m) s = .next (envFilter hardware m s.startStep) :=
  congrArg _ (runPlain_running h _)

theorem exec_envDecim_running {s : State} (h : s.halted = false) (now : Time) (nowValid : Bool) :
    exec (.envDecim now nowValid) s = .next (envDecim hardware ⟨now, nowValid⟩ s.startStep).state :=
  congrArg _ (runCall_running h _)

theorem exec_peakForward_running {s : State} (h : s.halted = false) (v : Binary32) (now : Time) (nowValid : Bool) :
    exec (.peakForward v now nowValid) s = .next (peakForward hardware v ⟨now, nowValid⟩ s.startStep).state :=
  congrArg _ (runCall_running h _)

/-- A sample that does not complete the ratio is only counted. -/
theorem envDecim_of_count_ne {cfg : Config} {s : State} (h : s.decimCount + 1 ≠ cfg.decimRatio) (clock : Clock) :
    envDecim cfg clock s = .returned { s with decimCount := s.decimCount + 1 } :=
  if_neg h

/-- The sample that completes the ratio starts the count over and is forwarded by value (rule R92). -/
theorem envDecim_of_count_eq {cfg : Config} {s : State} (h : s.decimCount + 1 = cfg.decimRatio) (clock : Clock) :
    envDecim cfg clock s = peakForward cfg s.smoothed clock { s with decimCount := 0 } :=
  if_pos h

/-- Settles O16: on a running block the filter acts on the state at the start of the step, with the weights computed. -/
theorem filterUpdatesSmoothed : Obligations.FilterUpdatesSmoothed := by
  unfold Obligations.FilterUpdatesSmoothed
  intro s m hrun
  rw [exec_envFilter_running hrun, envFilter, smoothe_hardware, startStep_smoothed, State.startStep]

/-- Settles O19: the two sides of the count. Emptying the outputs and starting the count over commute, so the forwarded
sample is a `PEAK.FORWARD` presented on the state with count 0. -/
theorem decimatorForwardsEverySeventeenth : Obligations.DecimatorForwardsEverySeventeenth := by
  unfold Obligations.DecimatorForwardsEverySeventeenth
  intro s now nowValid hrun
  rw [exec_envDecim_running hrun]
  refine ⟨fun hcounts => ?_, fun hforwards => ?_⟩
  · rw [envDecim_of_count_ne (cfg := hardware) (s := s.startStep) hcounts, returned_state,
      startStep_decimCount, State.startStep]
  · rw [envDecim_of_count_eq (cfg := hardware) (s := s.startStep) hforwards, startStep_smoothed,
      exec_peakForward_running (s := { s with decimCount := 0 }) hrun]
    rfl

end Sys2Proof.Proofs
end

section
/-! SUPPORT. The peak threshold (rules R100 to R103), and that no stage behind it reaches back into the registers in
front of the Manchester decoder. -/

namespace Sys2Proof.Proofs

open Sys2Proof Sys2Proof.Machine

/-- `t` still has the filter, decimator, peak and edge registers of `s`, and is halted only if `s` was or the clock of
the step cannot be read. It is what the stages from `MAN.STEP` down leave (rules R11, R243). -/
structure KeepsFrontEnd (clock : Clock) (s t : State) : Prop where
  smoothed : t.smoothed = s.smoothed
  decimCount : t.decimCount = s.decimCount
  ookMax : t.ookMax = s.ookMax
  lastChip : t.lastChip = s.lastChip
  sinceEdge : t.sinceEdge = s.sinceEdge
  running : clock.valid = true → s.halted = false → t.halted = false

theorem KeepsFrontEnd.refl (clock : Clock) (s : State) : KeepsFrontEnd clock s s :=
  ⟨rfl, rfl, rfl, rfl, rfl, fun _ hrun => hrun⟩

theorem KeepsFrontEnd.trans {clock : Clock} {s t u : State} (hst : KeepsFrontEnd clock s t)
    (htu : KeepsFrontEnd clock t u) : KeepsFrontEnd clock s u where
  smoothed := htu.smoothed.trans hst.smoothed
  decimCount := htu.decimCount.trans hst.decimCount
  ookMax := htu.ookMax.trans hst.ookMax
  lastChip := htu.lastChip.trans hst.lastChip
  sinceEdge := htu.sinceEdge.trans hst.sinceEdge
  running := fun hclock hrun => htu.running hclock (hst.running hclock hrun)

theorem keepsFrontEnd_setFrame (clock : Clock) (s : State) (frame : BitVec 64) :
    KeepsFrontEnd clock s { s with frame := frame } :=
  ⟨rfl, rfl, rfl, rfl, rfl, fun _ hrun => hrun⟩

theorem keepsFrontEnd_setPhase (clock : Clock) (s : State) (phase : Phase) :
    KeepsFrontEnd clock s { s with phase := phase } :=
  ⟨rfl, rfl, rfl, rfl, rfl, fun _ hrun => hrun⟩

/-- A caller whose rest runs only on a return keeps what both the callee and the rest keep. -/
theorem KeepsFrontEnd.andThen {clock : Clock} {s : State} {c : Call} {rest : State → Call}
    (hcall : KeepsFrontEnd clock s c.state) (hrest : ∀ t, KeepsFrontEnd clock t (rest t).state) :
    KeepsFrontEnd clock s (c.andThen rest).state := by
  cases c with
  | returned t => exact hcall.trans (hrest t)
  | abandoned t => exact hcall

theorem crcCheck_keepsFrontEnd (cfg : Config) (p : Payload) (clock : Clock) (s : State) :
    KeepsFrontEnd clock s (crcCheck cfg p clock s).state := by
  have hrunning : clock.valid = true → s.halted = false → (crcCheck cfg p clock s).state.halted = false := by
    intro hclock hrun
    rw [crcCheck_halted cfg p clock hrun, hclock, Bool.not_true, Bool.and_false]
  obtain ⟨_, _, _, _, _, _, _, _, _, hstate, -⟩ := crcCheck_frame cfg p clock s
  rw [hstate] at hrunning ⊢
  exact ⟨rfl, rfl, rfl, rfl, rfl, hrunning⟩

theorem frmDetect_keepsFrontEnd (cfg : Config) (clock : Clock) (s : State) :
    KeepsFrontEnd clock s (frmDetect cfg clock s).state := by
  unfold frmDetect
  split
  · exact (crcCheck_keepsFrontEnd cfg s.frame clock s).andThen fun t => keepsFrontEnd_setFrame clock t _
  · exact .refl clock s

theorem frmShift_keepsFrontEnd (cfg : Config) (d : Byte) (clock : Clock) (s : State) :
    KeepsFrontEnd clock s (frmShift cfg d clock s).state := by
  unfold frmShift
  split
  · exact .refl clock s
  · exact (keepsFrontEnd_setFrame clock s _).trans (frmDetect_keepsFrontEnd cfg clock _)

theorem emitPending_keepsFrontEnd (cfg : Config) (clock : Clock) (s : State) :
    KeepsFrontEnd clock s (emitPending cfg clock s).state := by
  unfold emitPending
  split
  · exact .refl clock s
  · exact frmShift_keepsFrontEnd cfg _ clock s

theorem manDecide_keepsFrontEnd (cfg : Config) (b : Bool) (clock : Clock) (s : State) :
    KeepsFrontEnd clock s (manDecide cfg b clock s).state :=
  (emitPending_keepsFrontEnd cfg clock s).andThen fun t => keepsFrontEnd_setPhase clock t _

theorem manStep_keepsFrontEnd (cfg : Config) (b : Byte) (clock : Clock) (s : State) :
    KeepsFrontEnd clock s (manStep cfg b clock s).state := by
  unfold manStep
  split
  · exact .refl clock s
  · exact manDecide_keepsFrontEnd cfg _ clock s

/-- An accepted chip is recorded and counted, and the mid-bit sample behind it touches neither (rules R111, R113). -/
theorem syncChip_keepsFrontEnd {c : Byte} (hchip : malformed c = false) (cfg : Config) (clock : Clock) (s : State) :
    KeepsFrontEnd clock
      { s with lastChip := c.setWidth 1, sinceEdge := countChip (c.setWidth 1) s.lastChip s.sinceEdge }
      (syncChip cfg c clock s).state := by
  rw [syncChip, hchip, if_neg Bool.false_ne_true]
  dsimp only
  split
  · exact manStep_keepsFrontEnd cfg c clock _
  · exact .refl clock _

/-- The decision of rule R102 is one of the two chips that `SYNC.CHIP` accepts. -/
theorem malformed_chipOf (cfg : Config) (c ookMax : Binary32) : malformed (chipOf cfg c ookMax) = false := by
  unfold chipOf
  split <;> rfl

/-- The clamp with the bound of rule R100. -/
theorem clampTop_hardware (v : Binary32) :
    clampTop hardware v = if fGt v 0x3F800000#32 then 0x3F800000#32 else v := rfl

/-- The peak update with the decay and the floor of rule R101. -/
theorem nextPeak_hardware (c ookMax : Binary32) :
    nextPeak hardware c ookMax =
      let decayed := fSub ookMax 0x38D1B717#32
      let raised := if fGt c decayed then c else decayed
      if fGt 0x3EAAAAAB#32 raised then 0x3EAAAAAB#32 else raised := by
  rw [nextPeak, hardware_peakFloor]
  rfl

/-- The chip decision with the threshold ratio of rule R102. -/
theorem chipOf_hardware (c ookMax : Binary32) :
    chipOf hardware c ookMax = if fGt c (fMul ookMax 0x3F400000#32) then 1#8 else 0#8 := rfl

theorem exec_syncChip_running {s : State} (h : s.halted = false) (c : Byte) (now : Time) (nowValid : Bool) :
    exec (.syncChip c now nowValid) s = .next (syncChip hardware c ⟨now, nowValid⟩ s.startStep).state :=
  congrArg _ (runCall_running h _)

/-- A forwarded value is a `SYNC.CHIP` presented on the state with the updated peak: emptying the outputs and writing
the peak commute. -/
theorem exec_peakForward_eq_exec_syncChip {s : State} (h : s.halted = false) (v : Binary32) (now : Time)
    (nowValid : Bool) :
    exec (.peakForward v now nowValid) s =
      exec (.syncChip (chipOf hardware (clampTop hardware v) (nextPeak hardware (clampTop hardware v) s.ookMax)) now
        nowValid) { s with ookMax := nextPeak hardware (clampTop hardware v) s.ookMax } := by
  rw [exec_peakForward_running h,
    exec_syncChip_running (s := { s with ookMax := nextPeak hardware (clampTop hardware v) s.ookMax }) h,
    peakForward, startStep_ookMax]
  rfl

/-- The peak is written and the chip recorded before the stages behind them run, which touch neither (rule R103). -/
theorem peakForward_keepsFrontEnd (cfg : Config) (v : Binary32) (clock : Clock) (s : State) :
    let peak := nextPeak cfg (clampTop cfg v) s.ookMax
    let chip : BitVec 1 := (chipOf cfg (clampTop cfg v) peak).setWidth 1
    KeepsFrontEnd clock
      { s with ookMax := peak, lastChip := chip, sinceEdge := countChip chip s.lastChip s.sinceEdge }
      (peakForward cfg v clock s).state :=
  syncChip_keepsFrontEnd (malformed_chipOf cfg _ _) cfg clock
    { s with ookMax := nextPeak cfg (clampTop cfg v) s.ookMax }

/-- Settles O21: the hand-over to `SYNC.CHIP` with the constants computed; the chip it hands on is accepted, and no
stage behind the synchronizer reaches back or, with a readable clock, halts. -/
theorem peakForwardDecidesTheChip : Obligations.PeakForwardDecidesTheChip := by
  unfold Obligations.PeakForwardDecidesTheChip
  intro s v now nowValid hrun
  dsimp only
  rw [← clampTop_hardware, ← nextPeak_hardware, ← chipOf_hardware]
  have kept := peakForward_keepsFrontEnd hardware v ⟨now, true⟩ s.startStep
  exact ⟨exec_peakForward_eq_exec_syncChip hrun v now nowValid, _, exec_peakForward_running hrun v now true,
    kept.running rfl hrun, kept.ookMax, kept.lastChip, kept.smoothed, kept.decimCount⟩

end Sys2Proof.Proofs
end

section
/-! SUPPORT. The synchronizer (rules R110 to R113). -/

namespace Sys2Proof.Proofs

open Sys2Proof Sys2Proof.Machine

/-- The state behind the counter update for the chip `c`, in front of the mid-bit sample (rule R111). -/
def countedState (c : Byte) (s : State) : State :=
  { s with lastChip := c.setWidth 1, sinceEdge := countChip (c.setWidth 1) s.lastChip s.sinceEdge }

/-- The mid-bit counts with the period and the half period of rule R112. -/
theorem isMidBit_hardware (n : Nat) : isMidBit hardware n = true ↔ n % 8 = 4 :=
  beq_iff_eq

/-- A chip is the bit in its lowest place, so narrowing it or widening the chip before it gives one comparison. -/
theorem setWidth_eq_lastChip_iff {c : Byte} (hchip : c = 0#8 ∨ c = 1#8) (lastChip : BitVec 1) :
    c.setWidth 1 = lastChip ↔ c = lastChip.setWidth 8 := by
  rcases hchip with rfl | rfl
  · revert lastChip; decide
  · revert lastChip; decide

/-- The counter update of an accepted chip, by the comparison of the bytes as rule R111 has it. -/
theorem countChip_setWidth {c : Byte} (hchip : c = 0#8 ∨ c = 1#8) (lastChip : BitVec 1) (sinceEdge : Nat) :
    countChip (c.setWidth 1) lastChip sinceEdge = if c ≠ lastChip.setWidth 8 then 1 else sinceEdge + 1 := by
  simp only [countChip, ne_eq, setWidth_eq_lastChip_iff hchip]

theorem syncChip_of_malformed {c : Byte} (h : malformed c = true) (cfg : Config) (clock : Clock) (s : State) :
    syncChip cfg c clock s = .returned s :=
  if_pos h

/-- An accepted chip is counted first; the count just written decides about the sample (rule R112). -/
theorem syncChip_of_accepted {c : Byte} (h : malformed c = false) (cfg : Config) (clock : Clock) (s : State) :
    syncChip cfg c clock s =
      if isMidBit cfg (countedState c s).sinceEdge then manStep cfg c clock (countedState c s)
      else .returned (countedState c s) := by
  rw [syncChip, h, if_neg Bool.false_ne_true]
  rfl

theorem exec_manStep_running {s : State} (h : s.halted = false) (b : Byte) (now : Time) (nowValid : Bool) :
    exec (.manStep b now nowValid) s = .next (manStep hardware b ⟨now, nowValid⟩ s.startStep).state :=
  congrArg _ (runCall_running h _)

theorem exec_syncChip_of_malformed {s : State} (hrun : s.halted = false) {c : Byte} (h : malformed c = true)
    (now : Time) (nowValid : Bool) : exec (.syncChip c now nowValid) s = .next s.startStep := by
  rw [exec_syncChip_running hrun, syncChip_of_malformed h, returned_state]

/-- Between two mid-bit counts an accepted chip is only recorded and counted. -/
theorem exec_syncChip_of_not_midBit {s : State} (hrun : s.halted = false) {c : Byte} (h : malformed c = false)
    (hcount : (countedState c s).sinceEdge % 8 ≠ 4) (now : Time) (nowValid : Bool) :
    exec (.syncChip c now nowValid) s = .next (countedState c s).startStep := by
  have hbetween : ¬ isMidBit hardware (countedState c s.startStep).sinceEdge = true :=
    mt (isMidBit_hardware _).mp hcount
  rw [exec_syncChip_running hrun, syncChip_of_accepted h, if_neg hbetween]
  rfl

/-- At a mid-bit count the operation is a `MAN.STEP` presented on the counted state: emptying the outputs and counting
the chip commute. -/
theorem exec_syncChip_of_midBit {s : State} (hrun : s.halted = false) {c : Byte} (h : malformed c = false)
    (hcount : (countedState c s).sinceEdge % 8 = 4) (now : Time) (nowValid : Bool) :
    exec (.syncChip c now nowValid) s = exec (.manStep c now nowValid) (countedState c s) := by
  have hsample : isMidBit hardware (countedState c s.startStep).sinceEdge = true :=
    (isMidBit_hardware _).mpr hcount
  rw [exec_syncChip_running hrun, syncChip_of_accepted h, if_pos hsample,
    exec_manStep_running (s := countedState c s) hrun]
  rfl

/-- Settles O25: the guard of rule R110, then the two sides of the mid-bit test on the counted state. -/
theorem syncChipCountsAndSamples : Obligations.SyncChipCountsAndSamples := by
  unfold Obligations.SyncChipCountsAndSamples
  intro s c now nowValid hrun
  dsimp only
  split
  case isTrue hguard => exact exec_syncChip_of_malformed hrun ((malformed_iff c).mpr hguard) now nowValid
  case isFalse hguard =>
    have haccepted : malformed c = false := Bool.eq_false_iff.mpr (mt (malformed_iff c).mp hguard)
    have hchip : c = 0#8 ∨ c = 1#8 := by rwa [not_and_or, not_ne_iff, not_ne_iff] at hguard
    rw [← countChip_setWidth hchip]
    split
    case isTrue hcount => exact exec_syncChip_of_not_midBit hrun haccepted hcount now nowValid
    case isFalse hcount => exact exec_syncChip_of_midBit hrun haccepted (not_ne_iff.mp hcount) now nowValid

end Sys2Proof.Proofs
end

section
/-! SUPPORT. The Manchester decoder (rules R120 to R127). -/

namespace Sys2Proof.Proofs

open Sys2Proof Sys2Proof.Machine

/-- The call was abandoned exactly if the state it leaves is halted, as for every call that a running block makes: only
a clock fault does either (rule R244). -/
def AbandonedIffHalted (c : Call) : Prop :=
  match c with
  | .returned t => t.halted = false
  | .abandoned t => t.halted = true

/-- The caller goes on exactly if the call left the block running. -/
theorem AbandonedIffHalted.andThen_state {c : Call} (h : AbandonedIffHalted c) (rest : State → Call) :
    (c.andThen rest).state = if c.state.halted then c.state else (rest c.state).state := by
  cases c with
  | returned t =>
    have hrun : t.halted = false := h
    rw [returned_andThen, returned_state, hrun, if_neg Bool.false_ne_true]
  | abandoned t =>
    have hhalted : t.halted = true := h
    rw [abandoned_andThen, abandoned_state, if_pos hhalted]

theorem frmDetect_abandonedIffHalted (cfg : Config) (clock : Clock) {s : State} (hrun : s.halted = false) :
    AbandonedIffHalted (frmDetect cfg clock s) := by
  have hcause := crcCheck_halted cfg s.frame clock hrun
  rcases frmDetect_cases cfg clock s with
    ⟨-, hdetect⟩ | ⟨-, hreturns, t, hcheck, hdetect⟩ | ⟨-, hfault, t, hcheck, hdetect⟩
  · rw [hdetect]
    exact hrun
  · rw [hcheck, hreturns] at hcause
    rw [hdetect]
    exact hcause
  · rw [hcheck, hfault] at hcause
    rw [hdetect]
    exact hcause

theorem frmShift_abandonedIffHalted (cfg : Config) (d : Byte) (clock : Clock) {s : State} (hrun : s.halted = false) :
    AbandonedIffHalted (frmShift cfg d clock s) := by
  unfold frmShift
  split
  · exact hrun
  · exact frmDetect_abandonedIffHalted cfg clock (s := { s with frame := shiftIn s.frame d }) hrun

theorem exec_frmShift_running {s : State} (h : s.halted = false) (d : Byte) (now : Time) (nowValid : Bool) :
    exec (.frmShift d now nowValid) s = .next (frmShift hardware d ⟨now, nowValid⟩ s.startStep).state :=
  congrArg _ (runCall_running h _)

theorem manStep_of_malformed {b : Byte} (h : malformed b = true) (cfg : Config) (clock : Clock) (s : State) :
    manStep cfg b clock s = .returned s :=
  if_pos h

theorem manStep_of_accepted {b : Byte} (h : malformed b = false) (cfg : Config) (clock : Clock) (s : State) :
    manStep cfg b clock s = manDecide cfg (b == 1#8) clock s := by
  rw [manStep, h, if_neg Bool.false_ne_true]

/-- The two B states have a pending bit, and a machine evaluated there shifts it in before it leaves (rule R126). -/
theorem manDecide_of_pending {s : State} {d : Byte} (h : pendingBit s.phase = some d) (cfg : Config) (b : Bool)
    (clock : Clock) :
    manDecide cfg b clock s =
      (frmShift cfg d clock s).andThen fun t => .returned { t with phase := nextPhase s.phase b } := by
  rw [manDecide, emitPending, h]

/-- From a B state the machine leaves for the A state of the sample, whichever B state it was (rule R121). -/
theorem nextPhase_of_pending {phase : Phase} {d : Byte} (h : pendingBit phase = some d) (b : Bool) :
    nextPhase phase b = if b then .highA else .lowA := by
  cases phase with
  | lowA | highA => cases h
  | lowB | highB => cases b <;> rfl

theorem exec_manStep_of_malformed {s : State} (hrun : s.halted = false) {b : Byte} (h : malformed b = true)
    (now : Time) (nowValid : Bool) : exec (.manStep b now nowValid) s = .next s.startStep := by
  rw [exec_manStep_running hrun, manStep_of_malformed h, returned_state]

/-- In an A state an accepted sample only moves the machine (rules R122, R124). -/
theorem exec_manStep_of_A {s : State} (hrun : s.halted = false) (hA : s.phase = .lowA ∨ s.phase = .highA) {b : Byte}
    (h : malformed b = false) (now : Time) (nowValid : Bool) :
    exec (.manStep b now nowValid) s = .next { s.startStep with phase := nextPhase s.phase (b == 1#8) } := by
  rw [exec_manStep_running hrun, manStep_of_accepted h, manDecide_of_A (s := s.startStep) hA, returned_state,
    startStep_phase]

/-- In a B state an accepted sample is a `FRM.SHIFT` of the pending bit and then, on a block still running, the
transition (rules R123, R125, R126). -/
theorem exec_manStep_of_pending {s : State} (hrun : s.halted = false) {d : Byte} (hd : pendingBit s.phase = some d)
    {b : Byte} (h : malformed b = false) (now : Time) (nowValid : Bool) :
    ∃ t, exec (.frmShift d now nowValid) s = .next t ∧
      exec (.manStep b now nowValid) s =
        .next (if t.halted then t else { t with phase := if b = 1#8 then .highA else .lowA }) := by
  refine ⟨_, exec_frmShift_running hrun d now nowValid, ?_⟩
  have hshift : AbandonedIffHalted (frmShift hardware d ⟨now, nowValid⟩ s.startStep) :=
    frmShift_abandonedIffHalted hardware d ⟨now, nowValid⟩ hrun
  rw [exec_manStep_running hrun, manStep_of_accepted h, manDecide_of_pending (s := s.startStep) hd,
    hshift.andThen_state, returned_state, startStep_phase, nextPhase_of_pending hd]
  simp only [beq_iff_eq]

/-- Settles O28: both B states are the case of a pending bit. -/
theorem manStepInTheBStates : Obligations.ManStepInTheBStates := by
  unfold Obligations.ManStepInTheBStates
  intro s b now nowValid hrun hb
  have haccepted : malformed b = false := by rcases hb with rfl | rfl <;> rfl
  refine ⟨fun hlowB => ?_, fun hhighB => ?_⟩
  · exact exec_manStep_of_pending hrun (congrArg pendingBit hlowB) haccepted now nowValid
  · exact exec_manStep_of_pending hrun (congrArg pendingBit hhighB) haccepted now nowValid

/-- Settles O27: the guard of rule R127, then the four rows of the A states in the table of rule R121. -/
theorem manStepInTheAStates : Obligations.ManStepInTheAStates := by
  unfold Obligations.ManStepInTheAStates
  intro s b now nowValid hrun
  refine ⟨fun hguard => ?guard, ?lowStays, ?lowLeaves, ?highStays, ?highLeaves⟩
  case guard => exact exec_manStep_of_malformed hrun ((malformed_iff b).mpr hguard) now nowValid
  case lowStays | lowLeaves =>
    rintro hlowA rfl
    rw [exec_manStep_of_A hrun (.inl hlowA) rfl, hlowA]
    rfl
  case highStays | highLeaves =>
    rintro hhighA rfl
    rw [exec_manStep_of_A hrun (.inr hhighA) rfl, hhighA]
    rfl

end Sys2Proof.Proofs
end

section
/-! SUPPORT. The insertion into the frame register (rule R140). -/

namespace Sys2Proof.Proofs

open Sys2Proof Sys2Proof.Machine

theorem frmShift_of_malformed {d : Byte} (h : malformed d = true) (cfg : Config) (clock : Clock) (s : State) :
    frmShift cfg d clock s = .returned s :=
  if_pos h

theorem frmShift_of_accepted {d : Byte} (h : malformed d = false) (cfg : Config) (clock : Clock) (s : State) :
    frmShift cfg d clock s = frmDetect cfg clock { s with frame := shiftIn s.frame d } := by
  rw [frmShift, h, if_neg Bool.false_ne_true]

theorem exec_frmShift_of_malformed {s : State} (hrun : s.halted = false) {d : Byte} (h : malformed d = true)
    (now : Time) (nowValid : Bool) : exec (.frmShift d now nowValid) s = .next s.startStep := by
  rw [exec_frmShift_running hrun, frmShift_of_malformed h, returned_state]

/-- The detector that `FRM.SHIFT` calls does what `FRM.DETECT` does as a step of its own on the shifted register: to
insert the bit and to start a step are updates of different fields. -/
theorem exec_frmShift_of_accepted {s : State} (hrun : s.halted = false) {d : Byte} (h : malformed d = false)
    (now : Time) (nowValid : Bool) :
    exec (.frmShift d now nowValid) s = exec (.frmDetect now nowValid) { s with frame := shiftIn s.frame d } := by
  have hcommute : { s.startStep with frame := shiftIn s.startStep.frame d } =
      ({ s with frame := shiftIn s.frame d } : State).startStep := rfl
  rw [exec_frmShift_running hrun, frmShift_of_accepted h, hcommute,
    exec_frmDetect_running (s := { s with frame := shiftIn s.frame d }) hrun]

theorem exec_frmDetect_of_no_match {s : State} (hrun : s.halted = false) (h : syncOf s.frame ≠ 0xFFFE#16)
    (now : Time) (nowValid : Bool) : exec (.frmDetect now nowValid) s = .next s.startStep := by
  rw [exec_frmDetect_running hrun, frmDetect_of_no_match (cfg := hardware) (s := s.startStep) h, returned_state]

/-- Settles O34: the guard, then the call of the detector, which with no match leaves the shifted register. -/
theorem shiftInsertsTheBit : Obligations.ShiftInsertsTheBit := by
  unfold Obligations.ShiftInsertsTheBit
  intro s d now nowValid hrun
  have haccepted : d = 0#8 ∨ d = 1#8 → malformed d = false := by rintro (rfl | rfl) <;> rfl
  refine ⟨fun hguard => ?guard, fun hd => ?inserted, fun hd hno => ?noMatch⟩
  case guard => exact exec_frmShift_of_malformed hrun ((malformed_iff d).mpr hguard) now nowValid
  case inserted => exact exec_frmShift_of_accepted hrun (haccepted hd) now nowValid
  case noMatch =>
    calc exec (.frmShift d now nowValid) s
        = exec (.frmDetect now nowValid) { s with frame := shiftIn s.frame d } :=
          exec_frmShift_of_accepted hrun (haccepted hd) now nowValid
      _ = .next ({ s with frame := shiftIn s.frame d } : State).startStep :=
          exec_frmDetect_of_no_match (s := { s with frame := shiftIn s.frame d }) hrun hno now nowValid

end Sys2Proof.Proofs
end

section
/-! SUPPORT. The payload validator (rules R151 to R155), and that a device update is decided by the registry alone. -/

namespace Sys2Proof.Proofs

open Sys2Proof Sys2Proof.Machine

/-- The registry that `f` leaves and the events it appends are fixed by the registry it finds, and it writes nothing
else: what stands in the counters, in the health state or in the output list before it makes no difference. -/
def ActsOnRegistry (f : State → State) : Prop :=
  ∀ before : Memory, ∃ (after : Memory) (events : List Event), ∀ s : State, s.registry = before →
    f s = { s with registry := after, output := s.output ++ events }

theorem actsOnRegistry_id : ActsOnRegistry fun s => s :=
  fun before => ⟨before, [], by rintro s rfl; simp⟩

theorem actsOnRegistry_setRegistry (g : Memory → Memory) :
    ActsOnRegistry fun s => { s with registry := g s.registry } :=
  fun before => ⟨g before, [], by rintro s rfl; simp⟩

theorem actsOnRegistry_emit (event : Memory → Event) : ActsOnRegistry fun s => s.emit (event s.registry) :=
  fun before => ⟨before, [event before], by rintro s rfl; rfl⟩

theorem ActsOnRegistry.andThen {f g : State → State} (hf : ActsOnRegistry f) (hg : ActsOnRegistry g) :
    ActsOnRegistry fun s => g (f s) := by
  intro before
  obtain ⟨between, first, hfirst⟩ := hf before
  obtain ⟨after, second, hsecond⟩ := hg between
  refine ⟨after, first ++ second, fun s hs => ?_⟩
  dsimp only
  rw [hfirst s hs, hsecond _ rfl, List.append_assoc]

/-- It is enough to act on the registry in a way that the registry found selects. -/
theorem actsOnRegistry_of_agrees {f : State → State}
    (h : ∀ m, ∃ g, ActsOnRegistry g ∧ ∀ s : State, s.registry = m → f s = g s) : ActsOnRegistry f := by
  intro before
  obtain ⟨g, hg, hagree⟩ := h before
  obtain ⟨after, events, hacts⟩ := hg before
  exact ⟨after, events, fun s hs => (hagree s hs).trans (hacts s hs)⟩

theorem sweepOne_of_absent {s : State} {serial : Serial} (h : memRead s.registry serial = none) (cfg : Config)
    (now : Time) : sweepOne cfg now s serial = s := by
  rw [sweepOne, h]

/-- A visit to a present device, where the test of rule R191 decides. -/
theorem sweepOne_of_present {s : State} {serial : Serial} {e : DeviceState} (h : memRead s.registry serial = some e)
    (cfg : Config) (now : Time) :
    sweepOne cfg now s serial =
      if timesOut cfg now e then
        { s with registry := memWrite s.registry serial { e with timeout := true } }.emit
          (.publish .status serial .timeout)
      else s := by
  rw [sweepOne, h]

theorem actsOnRegistry_sweepOne (cfg : Config) (now : Time) (serial : Serial) :
    ActsOnRegistry fun s => sweepOne cfg now s serial := by
  refine actsOnRegistry_of_agrees fun m => ?_
  cases hread : memRead m serial with
  | none => exact ⟨_, actsOnRegistry_id, by rintro s rfl; exact sweepOne_of_absent hread cfg now⟩
  | some e =>
    have hvisit : ∀ s : State, s.registry = m → memRead s.registry serial = some e := by rintro s rfl; exact hread
    by_cases ht : timesOut cfg now e = true
    · refine ⟨_, (actsOnRegistry_setRegistry fun r => memWrite r serial { e with timeout := true }).andThen
        (actsOnRegistry_emit fun _ => .publish .status serial .timeout), fun s hs => ?_⟩
      rw [sweepOne_of_present (hvisit s hs), if_pos ht]
    · refine ⟨_, actsOnRegistry_id, fun s hs => ?_⟩
      rw [sweepOne_of_present (hvisit s hs), if_neg ht]

theorem actsOnRegistry_sweepVisits (cfg : Config) (now : Time) (visits : List Serial) :
    ActsOnRegistry fun s => visits.foldl (sweepOne cfg now) s := by
  induction visits with
  | nil => exact actsOnRegistry_id
  | cons serial rest ih => exact (actsOnRegistry_sweepOne cfg now serial).andThen ih

/-- The registry also fixes which serials a sweep visits, and in which order. -/
theorem actsOnRegistry_sweepAll (cfg : Config) (now : Time) : ActsOnRegistry (sweepAll cfg now) :=
  actsOnRegistry_of_agrees fun m =>
    ⟨_, actsOnRegistry_sweepVisits cfg now (cfg.sweepOrder (presentSerials m)), by rintro s rfl; rfl⟩

theorem actsOnRegistry_notifyDevice (cfg : Config) (serial : Serial) (status : Byte) (now : Time) (e : DeviceState) :
    ActsOnRegistry (notifyDevice cfg serial status now e) :=
  ((((actsOnRegistry_emit fun _ => .publish .alarm serial (alarmPayload e.alarm)).andThen
    (actsOnRegistry_emit fun _ => .publish .status serial (statusPayload e.tamper e.batteryLow))).andThen
    (actsOnRegistry_setRegistry fun m =>
      memRefresh m serial { e with lastUpdateTime := now, lastRawState := status })).andThen
    (actsOnRegistry_sweepAll cfg now)).andThen
    (actsOnRegistry_emit fun m => .deviceList serial (listing m))

/-- The record that `DEV.UPDATE` stores is the one that its `DEV.NOTIFY` then reads. -/
theorem devUpdate_eq_gated_notify (cfg : Config) (serial : Serial) (status : Byte) (now : Time) (s : State) :
    let stored := storedDevice cfg s.registry serial status now
    let written : State := { s with registry := memWrite s.registry serial stored }
    devUpdate cfg serial status now s =
      if notifyGate cfg status now stored then notifyDevice cfg serial status now stored written else written :=
  devNotify_present (memRead_memWrite_same _ _ _) cfg status now

theorem actsOnRegistry_devUpdate (cfg : Config) (serial : Serial) (status : Byte) (now : Time) :
    ActsOnRegistry (devUpdate cfg serial status now) := by
  refine actsOnRegistry_of_agrees fun m => ?_
  have hwrite := actsOnRegistry_setRegistry fun r => memWrite r serial (storedDevice cfg m serial status now)
  by_cases hgate : notifyGate cfg status now (storedDevice cfg m serial status now) = true
  · have hnotify := actsOnRegistry_notifyDevice cfg serial status now (storedDevice cfg m serial status now)
    refine ⟨_, hwrite.andThen hnotify, ?_⟩
    rintro s rfl
    exact (devUpdate_eq_gated_notify cfg serial status now s).trans (if_pos hgate)
  · refine ⟨_, hwrite, ?_⟩
    rintro s rfl
    exact (devUpdate_eq_gated_notify cfg serial status now s).trans (if_neg hgate)

/-- The two brands and the two polynomials of rule R151. -/
theorem polyOf_hardware (brand : BitVec 4) :
    polyOf hardware brand = if brand = 2#4 ∨ brand = 10#4 then 0x18050#17 else 0x18005#17 := by
  have hset : is2gig hardware brand = true ↔ brand = 2#4 ∨ brand = 10#4 := by simp [is2gig, hardware]
  simp only [polyOf, hset]
  rfl

/-- The verdict of rule R154 on the remainder of rule R153. -/
theorem crcValid_iff (cfg : Config) (p : Payload) :
    crcValid cfg p = true ↔ divisionLoop (polyOf cfg (brandOf p)) 32 (nonsync p) = 0#48 :=
  beq_iff_eq

/-- The state behind the payload counter and the selection of the polynomial, in front of the verdict (rule R155). The
field that shows the selection is the model's own (log 6). -/
def checkedState (cfg : Config) (p : Payload) (s : State) : State :=
  { s with payloadCount := countUp cfg s.payloadCount, selectedPoly := some (polyOf cfg (brandOf p)) }

theorem crcCheck_of_invalid {cfg : Config} {p : Payload} (h : crcValid cfg p = false) (clock : Clock) (s : State) :
    crcCheck cfg p clock s = .returned
      { checkedState cfg p s with
        errorCount := countUp cfg s.errorCount
        output := s.output ++ [.crcFail p (countUp cfg s.errorCount) (countUp cfg s.payloadCount)] } := by
  rw [crcCheck, crcPoly_select, h, if_neg Bool.false_ne_true]
  rfl

theorem crcCheck_of_no_clock {cfg : Config} {p : Payload} (h : crcValid cfg p = true) {clock : Clock}
    (hclock : clock.valid = false) (s : State) :
    crcCheck cfg p clock s = raiseClockFault clockAtPayload (checkedState cfg p s) := by
  rw [crcCheck, crcPoly_select, h, if_pos rfl, hclock, if_neg Bool.false_ne_true]
  rfl

theorem crcCheck_of_clock {cfg : Config} {p : Payload} (h : crcValid cfg p = true) {clock : Clock}
    (hclock : clock.valid = true) (s : State) :
    crcCheck cfg p clock s = .returned
      (devUpdate cfg (serialOf p) (statusOf p) clock.now (rxhMark cfg true clock.now (checkedState cfg p s))) := by
  rw [crcCheck, crcPoly_select, h, if_pos rfl, hclock, if_pos rfl]
  rfl

/-- `RXH.MARK` neither reads nor writes what the validator writes in front of the verdict. -/
theorem rxhMark_checkedState (cfg : Config) (p : Payload) (g : Bool) (now : Time) (s : State) :
    rxhMark cfg g now (checkedState cfg p s) = checkedState cfg p (rxhMark cfg g now s) := by
  rw [rxhMark_spec, rxhMark_spec]
  rfl

theorem rxhMark_payloadCount (cfg : Config) (g : Bool) (now : Time) (s : State) :
    (rxhMark cfg g now s).payloadCount = s.payloadCount := by
  rw [rxhMark_spec]

theorem rxhMark_halted (cfg : Config) (g : Bool) (now : Time) (s : State) :
    (rxhMark cfg g now s).halted = s.halted := by
  rw [rxhMark_spec]

/-- Inside a longer step `DEV.UPDATE` does what it does as a step of its own, behind the events already in the output
list. -/
theorem devUpdate_checkedState (cfg : Config) (p : Payload) (serial : Serial) (status : Byte) (now : Time) (s : State) :
    devUpdate cfg serial status now (checkedState cfg p s) =
      let alone := devUpdate cfg serial status now s.startStep
      { checkedState cfg p alone with output := s.output ++ alone.output } := by
  obtain ⟨after, events, h⟩ := actsOnRegistry_devUpdate cfg serial status now s.registry
  rw [h (checkedState cfg p s) rfl, h s.startStep rfl]
  rfl

theorem devUpdate_payloadCount (cfg : Config) (serial : Serial) (status : Byte) (now : Time) (s : State) :
    (devUpdate cfg serial status now s).payloadCount = s.payloadCount := by
  obtain ⟨m, out, h, -⟩ := devUpdate_frame cfg serial status now s
  rw [h]

theorem exec_rxhMark_running {s : State} (h : s.halted = false) (g : Bool) (clock : Clock) :
    exec (.rxhMark g clock) s = .next (rxhMark hardware g clock.now s.startStep) :=
  congrArg _ (runPlain_running h _)

theorem exec_devUpdate_running {s : State} (h : s.halted = false) (serial : Serial) (status : Byte) (clock : Clock) :
    exec (.devUpdate serial status clock) s = .next (devUpdate hardware serial status clock.now s.startStep) :=
  congrArg _ (runPlain_running h _)

/-- A payload that fails the CRC is counted and reported, with both counts as they are after it. -/
theorem exec_crcCheck_of_invalid {s : State} (hrun : s.halted = false) {p : Payload}
    (h : crcValid hardware p = false) (now : Time) (nowValid : Bool) :
    exec (.crcCheck p now nowValid) s = .next
      { s with
        payloadCount := s.payloadCount + 1, errorCount := s.errorCount + 1
        selectedPoly := some (polyOf hardware (brandOf p))
        output := [.crcFail p (s.errorCount + 1) (s.payloadCount + 1)] } := by
  rw [exec_crcCheck_running hrun, crcCheck_of_invalid h, returned_state, checkedState, countUp_hardware,
    countUp_hardware]
  rfl

/-- A valid payload is counted before the time that cannot be read halts the block. -/
theorem exec_crcCheck_of_no_clock {s : State} (hrun : s.halted = false) {p : Payload}
    (h : crcValid hardware p = true) (now : Time) :
    exec (.crcCheck p now false) s = .next
      { s with
        payloadCount := s.payloadCount + 1, selectedPoly := some (polyOf hardware (brandOf p)), output := []
        halted := true, faultCause := 1#2 } := by
  rw [exec_crcCheck_running hrun, crcCheck_of_no_clock h rfl, checkedState, countUp_hardware]
  rfl

/-- A valid payload with a time is the mark and the update, each as the step it is on its own, one after the other. -/
theorem exec_crcCheck_of_clock {s : State} (hrun : s.halted = false) {p : Payload}
    (h : crcValid hardware p = true) (now : Time) :
    ∃ marked updated,
      exec (.rxhMark true ⟨now, true⟩) s = .next marked ∧
      exec (.devUpdate (serialOf p) (statusOf p) ⟨now, true⟩) marked = .next updated ∧
      exec (.crcCheck p now true) s = .next
        { updated with
          payloadCount := s.payloadCount + 1, selectedPoly := some (polyOf hardware (brandOf p))
          output := marked.output ++ updated.output } := by
  have hmarked : (rxhMark hardware true now s.startStep).halted = false :=
    (rxhMark_halted hardware true now s.startStep).trans hrun
  refine ⟨_, _, exec_rxhMark_running hrun true _, exec_devUpdate_running hmarked _ _ _, ?_⟩
  rw [exec_crcCheck_running hrun, crcCheck_of_clock h rfl, returned_state, rxhMark_checkedState,
    devUpdate_checkedState]
  dsimp only [checkedState]
  rw [countUp_hardware, devUpdate_payloadCount, startStep_payloadCount, rxhMark_payloadCount,
    startStep_payloadCount]

/-- Settles O37: one lemma for each verdict, with the polynomial of the brand written out. -/
theorem crcCheckVerdicts : Obligations.CrcCheckVerdicts := by
  unfold Obligations.CrcCheckVerdicts
  intro s p now nowValid hrun
  dsimp only
  rw [← polyOf_hardware, ne_eq, ← crcValid_iff]
  refine ⟨fun hfails => ?fails, fun hvalid hclock => ?noClock, fun hvalid hclock => ?clock⟩
  case fails => exact exec_crcCheck_of_invalid hrun (Bool.eq_false_iff.mpr hfails) now nowValid
  case noClock =>
    subst hclock
    exact exec_crcCheck_of_no_clock hrun hvalid now
  case clock =>
    subst hclock
    exact exec_crcCheck_of_clock hrun hvalid now

end Sys2Proof.Proofs
end

section
/-! SUPPORT. The device registry (rules R165 to R177): the record an update stores, and what a notified update does. -/

namespace Sys2Proof.Proofs

open Sys2Proof Sys2Proof.Machine

theorem exec_devNotify_running {s : State} (h : s.halted = false) (serial : Serial) (status : Byte) (clock : Clock) :
    exec (.devNotify serial status clock) s = .next (devNotify hardware serial status clock.now s.startStep) :=
  congrArg _ (runPlain_running h _)

theorem exec_sweep_running {s : State} (h : s.halted = false) (clock : Clock) :
    exec (.sweep clock) s = .next (sweepAll hardware clock.now s.startStep) :=
  congrArg _ (runPlain_running h _)

/-- The gate of rule R174 with this hardware's minimum interval. -/
theorem notifyGate_hardware (status : Byte) (now : Time) (e : DeviceState) :
    notifyGate hardware status now e = true ↔ status ≠ e.lastRawState ∨ 60#64 < now - e.lastUpdateTime := by
  have hinterval : hardware.notifyMinInterval = 60#64 := by decide
  simp [notifyGate, hinterval]

/-- The lowered baseline, the alarm and the two flags of rules R167 to R171 with this hardware's masks and its
active-low flags. -/
theorem updatedDevice_hardware (status : Byte) (now : Time) (e : DeviceState) :
    let alarmState := status &&& 0xB0#8
    let baseline := if alarmState < e.minAlarmStateSeen then alarmState else e.minAlarmStateSeen
    updatedDevice hardware status now e =
      { minAlarmStateSeen := baseline
        alarm := decide (alarmState > baseline)
        tamper := decide (status &&& 0x40#8 = 0#8)
        batteryLow := decide (status &&& 0x08#8 = 0#8)
        timeout := false
        lastRawState := e.lastRawState
        lastUpdateTime := e.lastUpdateTime
        lastAlarmTime := if alarmState > baseline then now else e.lastAlarmTime } := by
  intro alarmState baseline
  have hflag : alarmFlag alarmState baseline = true ↔ alarmState > baseline := decide_eq_true_iff
  have htime : (if alarmFlag alarmState baseline then now else e.lastAlarmTime) =
      if alarmState > baseline then now else e.lastAlarmTime := if_congr hflag rfl rfl
  rw [← htime]
  rfl

/-- A device whose bookkeeping is of this very time is not silent (rule R191). -/
theorem timesOut_of_updated_now (cfg : Config) (now : Time) {e : DeviceState} (h : e.lastUpdateTime = now) :
    timesOut cfg now e = false := by
  have helapsed : elapsed cfg now e.lastUpdateTime = 0#64 := by simp [elapsed, h]
  simp [timesOut, helapsed]

theorem flaggedBy_of_updated_now (cfg : Config) (now : Time) {e : DeviceState} (h : e.lastUpdateTime = now) :
    flaggedBy cfg now e = e := by
  rw [flaggedBy, timesOut_of_updated_now cfg now h]
  rfl

/-- The bookkeeping of rule R176 reaches the next state: the sweep behind it does not flag the device. -/
theorem memRead_notifyDevice_same {s : State} {serial : Serial} {e : DeviceState}
    (h : memRead s.registry serial = some e) (cfg : Config) (status : Byte) (now : Time) :
    memRead (notifyDevice cfg serial status now e s).registry serial =
      some { e with lastUpdateTime := now, lastRawState := status } := by
  obtain ⟨m, out, hnotify, -, hread, -⟩ := notifyDevice_frame cfg serial status now e s
  rw [hnotify]
  have hswept := hread serial
  simpa [h, flaggedBy_of_updated_now] using hswept

/-- What `DEV.UPDATE` leaves of its own serial: the record it stored, with or without the bookkeeping of a
notification. -/
theorem memRead_devUpdate_same (cfg : Config) (serial : Serial) (status : Byte) (now : Time) (s : State) :
    let stored := storedDevice cfg s.registry serial status now
    memRead (devUpdate cfg serial status now s).registry serial =
      some (if notifyGate cfg status now stored then { stored with lastUpdateTime := now, lastRawState := status }
        else stored) := by
  intro stored
  have hwritten : memRead (memWrite s.registry serial stored) serial = some stored := memRead_memWrite_same _ _ _
  rw [devUpdate_eq_gated_notify]
  by_cases hgate : notifyGate cfg status now stored = true
  · rw [if_pos hgate, if_pos hgate]
    exact memRead_notifyDevice_same hwritten cfg status now
  · rw [if_neg hgate, if_neg hgate]
    exact hwritten

/-- A notified update of a present device is the sweep on the refreshed registry, with the sweep's events between the
two publishes and the listing (rules R175 to R177). -/
theorem notifyDevice_of_present {s : State} {serial : Serial} {e : DeviceState}
    (h : memRead s.registry serial = some e) (cfg : Config) (status : Byte) (now : Time) :
    let kept : DeviceState := { e with lastUpdateTime := now, lastRawState := status }
    let swept := sweepAll cfg now { s with registry := memWrite s.registry serial kept, output := [] }
    notifyDevice cfg serial status now e s =
      { swept with
        output := s.output ++
          ([.publish .alarm serial (alarmPayload e.alarm),
            .publish .status serial (statusPayload e.tamper e.batteryLow)] ++
          swept.output ++ [.deviceList serial (listing swept.registry)]) } := by
  intro kept swept
  obtain ⟨after, events, hsweep⟩ := actsOnRegistry_sweepAll cfg now (memWrite s.registry serial kept)
  have hswept : swept = { s with registry := after, output := events } := hsweep _ rfl
  have hrefresh : memRefresh s.registry serial kept = memWrite s.registry serial kept := memRefresh_present h kept
  dsimp only [notifyDevice, emit_registry]
  rw [hrefresh, hsweep _ rfl, hswept]
  simp [State.emit]

/-- `DEV.UPDATE` of a running block is `DEV.NOTIFY` of the block that has the record stored (rule R165). -/
theorem exec_devUpdate_eq_exec_devNotify {s : State} (h : s.halted = false) (serial : Serial) (status : Byte)
    (clock : Clock) :
    exec (.devUpdate serial status clock) s =
      exec (.devNotify serial status clock)
        { s with
          registry := memWrite s.registry serial (storedDevice hardware s.registry serial status clock.now) } := by
  rw [exec_devUpdate_running h, exec_devNotify_running (s := { s with registry := memWrite s.registry serial _ }) h]
  rfl

/-- Settles O46: the stored record is the one of rules R166 to R171, and a notification that follows rewrites nothing
of it but its bookkeeping. -/
theorem updateStoresThenNotifies : Obligations.UpdateStoresThenNotifies := by
  unfold Obligations.UpdateStoresThenNotifies
  intro s serial status now nowValid hrun fresh e alarmState baseline stored
  have hstored : storedDevice hardware s.registry serial status now = stored := updatedDevice_hardware status now e
  have hread := memRead_devUpdate_same hardware serial status now s.startStep
  rw [startStep_registry, hstored] at hread
  refine ⟨?_, _, _, exec_devUpdate_running hrun _ _ _, hread, ?_⟩
  · rw [exec_devUpdate_eq_exec_devNotify hrun, hstored]
  · split <;> exact ⟨rfl, rfl, rfl, rfl, rfl, rfl⟩

/-- Settles O48: the gate of rule R174, then the one equation for a notified update of a present device. -/
theorem notifyGateDecides : Obligations.NotifyGateDecides := by
  unfold Obligations.NotifyGateDecides
  intro s serial status now nowValid e hrun hpresent
  rw [← notifyGate_hardware, exec_devNotify_running hrun, devNotify_present (s := s.startStep) hpresent]
  have hsweep (m : Memory) := exec_sweep_running (s := { s with registry := m }) hrun ⟨now, nowValid⟩
  refine ⟨fun hsuppressed => ?suppressed, fun hnotified => ⟨_, hsweep _, ?notified⟩⟩
  case suppressed =>
    rw [if_neg hsuppressed]
    rfl
  case notified =>
    rw [if_pos hnotified, notifyDevice_of_present (s := s.startStep) hpresent]
    rfl

end Sys2Proof.Proofs
end

section
/-! SUPPORT. The timeout sweep in the listed order (rules R190 and R191): registry and events, entry by entry. -/

namespace Sys2Proof.Proofs

open Sys2Proof Sys2Proof.Machine

/-- In canonical form no listed entry is hidden behind another of its serial. -/
theorem memRead_of_mem {m : Memory} (hwf : m.wf) {entry : Serial × DeviceState} (hmem : entry ∈ m) :
    memRead m entry.1 = some entry.2 := by
  induction m with
  | nil => simp at hmem
  | cons head rest ih =>
    obtain ⟨hbelow, hrest⟩ := List.pairwise_cons.mp hwf
    rcases List.mem_cons.mp hmem with rfl | hmem
    · exact if_pos rfl
    · have hne : entry.1 ≠ head.1 := (BitVec.ne_of_lt (hbelow entry hmem)).symm
      exact (if_neg hne).trans (ih hrest hmem)

/-- A change of every record in place is seen by every read. -/
theorem memRead_mapRecords (f : DeviceState → DeviceState) (m : Memory) (serial : Serial) :
    memRead (m.map fun entry => (entry.1, f entry.2)) serial = (memRead m serial).map f := by
  induction m with
  | nil => rfl
  | cons head rest ih =>
    by_cases h : serial = head.1
    · simp [memRead, h]
    · simpa [memRead, h] using ih

theorem mapRecords_wf {m : Memory} (hwf : m.wf) (f : DeviceState → DeviceState) :
    Memory.wf (m.map fun entry => (entry.1, f entry.2)) :=
  List.pairwise_map.mpr hwf

theorem flatMap_singleton_if {α β : Type} (p : α → Bool) (f : α → β) (l : List α) :
    (l.flatMap fun a => if p a then [f a] else []) = (l.filter p).map f := by
  induction l with
  | nil => rfl
  | cons a rest ih => cases h : p a <;> simp [h, ih]

/-- The test of rule R191 at this hardware's timeout and width. -/
theorem timesOut_hardware (now : Time) (e : DeviceState) :
    timesOut hardware now e = (decide (27000#64 < now - e.lastUpdateTime) && !e.timeout) := by
  rw [timesOut, elapsed_hardware]
  rfl

/-- The events of the visits in listed order are one for each entry that times out. -/
theorem timeoutEvents_eq_filter_map (cfg : Config) (now : Time) {m : Memory} (hwf : m.wf) :
    (presentSerials m).flatMap (timeoutEvent cfg now m) =
      (m.filter fun entry => timesOut cfg now entry.2).map fun entry => .publish .status entry.1 .timeout := by
  have hvisit : ∀ entry ∈ m, timeoutEvent cfg now m entry.1 =
      if timesOut cfg now entry.2 then [.publish .status entry.1 .timeout] else [] := by
    intro entry hmem
    rw [timeoutEvent, memRead_of_mem hwf hmem]
  rw [presentSerials, List.flatMap_map, List.flatMap_congr hvisit, flatMap_singleton_if]

/-- A sweep of a canonical registry, under any configuration that visits in ascending order: each record flagged in
place, and the events in the listed order. -/
theorem sweepAll_of_ascending {cfg : Config} (hascending : ∀ serials, cfg.sweepOrder serials = serials) (now : Time)
    {s : State} (hwf : s.registry.wf) :
    sweepAll cfg now s =
      { s with
        registry := s.registry.map fun entry => (entry.1, flaggedBy cfg now entry.2)
        output := s.output ++ (s.registry.filter fun entry => timesOut cfg now entry.2).map fun entry =>
          .publish .status entry.1 .timeout } := by
  have hperm : ∀ serials, (cfg.sweepOrder serials).Perm serials := fun serials => .of_eq (hascending serials)
  obtain ⟨m, hsweep, hread, hm⟩ := sweepAll_spec hperm now s hwf
  have hregistry : m = s.registry.map fun entry => (entry.1, flaggedBy cfg now entry.2) :=
    memory_ext hm (mapRecords_wf hwf _) fun serial => (hread serial).trans (memRead_mapRecords _ _ serial).symm
  rw [hsweep, hregistry, hascending, timeoutEvents_eq_filter_map cfg now hwf]

/-- Settles O50: the sweep in ascending order, at this hardware's timeout, from the empty output list of a new step. -/
theorem sweepFlagsTheSilentDevices : Obligations.SweepFlagsTheSilentDevices := by
  unfold Obligations.SweepFlagsTheSilentDevices
  intro s now nowValid hrun hwf
  rw [exec_sweep_running hrun, sweepAll_of_ascending (s := s.startStep) (fun _ => rfl) now hwf]
  simp only [flaggedBy_hardware, timesOut_hardware]
  rfl

end Sys2Proof.Proofs
end

section
/-! SUPPORT. The RX health monitor (rules R201, R203): the gate at this hardware's interval, and `RXFAIL` as a mark. -/

namespace Sys2Proof.Proofs

open Sys2Proof Sys2Proof.Machine

/-- The gate of rule R201 with this hardware's minimum interval. -/
theorem rxGate_hardware (g : Bool) (now : Time) (s : State) :
    rxGate hardware g now s = true ↔ g ≠ s.rxGood ∨ 60#64 < now - s.rxLastPublishTime := by
  have hinterval : hardware.rxMinInterval = 60#64 := by decide
  simp [rxGate, hinterval]

theorem rxhMark_of_gate {cfg : Config} {g : Bool} {now : Time} {s : State} (h : rxGate cfg g now s = true) :
    rxhMark cfg g now s =
      { s.emit (.publish .rxStatus 0#20 (if g then .ok else .failed)) with rxLastPublishTime := now, rxGood := g } :=
  if_pos h

theorem rxhMark_of_suppressed {cfg : Config} {g : Bool} {now : Time} {s : State} (h : ¬ rxGate cfg g now s = true) :
    rxhMark cfg g now s = { s with rxGood := g } :=
  if_neg h

theorem rxFail_of_clock {clock : Clock} (h : clock.valid = true) (cfg : Config) (s : State) :
    rxFail cfg clock s = .returned (rxhMark cfg false clock.now s) :=
  if_pos h

theorem rxFail_of_no_clock {clock : Clock} (h : clock.valid = false) (cfg : Config) (s : State) :
    rxFail cfg clock s = raiseClockFault clockAtRxfail s :=
  if_neg (ne_true_of_eq_false h)

theorem exec_rxfail_halted {s : State} (h : s.halted = true) (now : Time) (nowValid : Bool) :
    exec (.rxfail now nowValid) s = .next s.startStep :=
  congrArg _ (runCall_halted h _)

theorem exec_rxfail_running {s : State} (h : s.halted = false) (now : Time) (nowValid : Bool) :
    exec (.rxfail now nowValid) s = .next (rxFail hardware ⟨now, nowValid⟩ s.startStep).state :=
  congrArg _ (runCall_running h _)

/-- With a clock `RXFAIL` is the step that `RXH.MARK(false)` is on its own (rule R203). -/
theorem exec_rxfail_eq_exec_rxhMark {s : State} (h : s.halted = false) (now : Time) :
    exec (.rxfail now true) s = exec (.rxhMark false ⟨now, true⟩) s := by
  rw [exec_rxfail_running h, rxFail_of_clock rfl, returned_state, exec_rxhMark_running h]

/-- Settles O44: both sides of the gate, which the start of a step leaves as it is. A mark without a clock is covered,
since the rule does not read `now_valid` (log 5). -/
theorem rxMarkPublishesOnChangeOrAfterAMinute : Obligations.RxMarkPublishesOnChangeOrAfterAMinute := by
  unfold Obligations.RxMarkPublishesOnChangeOrAfterAMinute
  intro s g now nowValid hrun
  have hgate := rxGate_hardware g now s.startStep
  rw [startStep_rxGood, startStep_rxLastPublishTime] at hgate
  rw [exec_rxhMark_running hrun]
  split
  case isTrue hpublishes =>
    rw [rxhMark_of_gate (hgate.mpr hpublishes)]
    rfl
  case isFalse hsuppressed =>
    rw [rxhMark_of_suppressed (mt hgate.mp hsuppressed)]
    rfl

/-- Settles O45: with a clock it is O44 for the value false, which is a change exactly when true was stored. -/
theorem rxFailMarksBadOrHalts : Obligations.RxFailMarksBadOrHalts := by
  unfold Obligations.RxFailMarksBadOrHalts
  refine ⟨fun s now nowValid hhalted => exec_rxfail_halted hhalted now nowValid,
    fun s now hrun => ⟨?clock, ?noClock⟩⟩
  case clock =>
    have hchange : false ≠ s.rxGood ↔ s.rxGood = true := ne_comm.trans Bool.ne_false_iff
    rw [exec_rxfail_eq_exec_rxhMark hrun, rxMarkPublishesOnChangeOrAfterAMinute s false now true hrun]
    exact congrArg _ (if_congr (or_congr_left hchange) rfl rfl)
  case noClock =>
    rw [exec_rxfail_running hrun, rxFail_of_no_clock rfl]
    rfl

end Sys2Proof.Proofs
end

section
/-! SUPPORT. The operation word (log 2): what each test of the decoder accepts, and the two round trips. -/

namespace Sys2Proof.Proofs

open Sys2Proof Sys2Proof.Machine Sys2Proof.Laws

/-- `now_valid` is the one bit that the field carries. -/
theorem clocked_eq_ok_iff (f : OpFields) (i : Time → Bool → Instr) (j : Instr) :
    f.clocked i = .ok j ↔ ∃ nowValid, f.val = validField nowValid ∧ j = i f.now nowValid := by
  unfold OpFields.clocked
  split
  case isTrue hzero => simp [hzero, validField, eq_comm]
  case isFalse hzero =>
    split
    case isTrue hone => simp [hone, validField, eq_comm]
    case isFalse hone => simp [hzero, hone, validField]

theorem timed_eq_ok_iff (f : OpFields) (i : Clock → Instr) (j : Instr) :
    f.timed i = .ok j ↔ ∃ nowValid, f.val = validField nowValid ∧ j = i ⟨f.now, nowValid⟩ :=
  clocked_eq_ok_iff f _ j

theorem timeless_eq_ok_iff (f : OpFields) (i j : Instr) :
    f.timeless i = .ok j ↔ (f.now = 0#64 ∧ f.val = 0#8) ∧ j = i := by
  unfold OpFields.timeless
  split
  case isTrue hzero => simp [hzero, eq_comm]
  case isFalse hused => simp [hused]

theorem selected_eq_ok_iff (f : OpFields) (k : BitVec 64) (r : Except DecodeError Instr) (j : Instr) :
    f.selected k r = .ok j ↔ f.sel = k ∧ r = .ok j := by
  unfold OpFields.selected
  split <;> simp_all

theorem bare_eq_ok_iff (f : OpFields) (r : Except DecodeError Instr) (j : Instr) :
    f.bare r = .ok j ↔ f.arg = 0#32 ∧ r = .ok j := by
  unfold OpFields.bare
  split <;> simp_all

theorem operand_eq_ok_iff (f : OpFields) (n : Nat) (r : BitVec n → Except DecodeError Instr) (j : Instr) :
    f.operand n r = .ok j ↔ ∃ a : BitVec n, f.arg = a.setWidth 32 ∧ f.arg.setWidth n = a ∧ r a = .ok j := by
  unfold OpFields.operand
  split
  case isTrue hfits => exact ⟨fun h => ⟨_, hfits, rfl, h⟩, by rintro ⟨a, -, rfl, h⟩; exact h⟩
  case isFalse hwide => exact ⟨fun h => (nomatch h), by rintro ⟨a, harg, rfl, -⟩; exact absurd harg hwide⟩

/-- The condition of a decoder's branch holds where its test fails everywhere else. -/
theorem ite_eq_ok_iff (c : Prop) [Decidable c] (r q : Except DecodeError Instr) (j : Instr) :
    (if c then r else q) = .ok j ↔ (c ∧ r = .ok j) ∨ (¬ c ∧ q = .ok j) := by
  split <;> simp_all

/-- A narrower operand comes back from the 32 bits it was widened to. -/
theorem setWidth_setWidth_of_le {n : Nat} (hn : n ≤ 32) (a : BitVec n) : (a.setWidth 32).setWidth n = a := by
  rw [BitVec.setWidth_setWidth_of_le _ hn, BitVec.setWidth_eq]

/-- The two operands of an update are the two fields of its 28 bits. -/
theorem append_extractLsb' (a : BitVec 28) : (a.extractLsb' 20 8 ++ a.extractLsb' 0 20 : BitVec 28) = a := by
  refine BitVec.eq_of_getLsbD_eq fun k hk => ?_
  simp only [BitVec.getLsbD_append, BitVec.getLsbD_extractLsb']
  split
  · simp_all
  · have hfield : k - 20 < 8 := by omega
    have hplace : 20 + (k - 20) = k := by omega
    simp [hfield, hplace]

/-- Form 0, row by row: a word it decodes is the word of the operation it stands for. -/
theorem encodeFields_of_decodeTableForm {f : OpFields} {i : Instr} (hform : f.form = 0#8)
    (h : decodeTableForm f = .ok i) : i.wellFormed = true ∧ encodeFields i = f := by
  obtain ⟨sel, now, arg, form, val⟩ := f
  simp only [decodeTableForm, ite_eq_ok_iff, bare_eq_ok_iff, clocked_eq_ok_iff, timeless_eq_ok_iff,
    reduceCtorEq, and_false, or_false] at h hform
  subst hform
  rcases h with ⟨rfl, rfl, ⟨rfl, rfl⟩, rfl⟩ | ⟨-, h⟩
  case inl => exact ⟨rfl, rfl⟩
  rcases h with ⟨rfl, nowValid, rfl, rfl⟩ | ⟨-, h⟩
  case inl => exact ⟨rfl, rfl⟩
  rcases h with ⟨rfl, rfl, nowValid, rfl, rfl⟩ | ⟨-, h⟩
  case inl => exact ⟨rfl, rfl⟩
  rcases h with ⟨rfl, rfl, ⟨rfl, rfl⟩, rfl⟩ | ⟨-, h⟩
  case inl => exact ⟨rfl, rfl⟩
  rcases h with ⟨rfl, rfl, ⟨rfl, rfl⟩, rfl⟩ | ⟨-, h⟩
  case inl => exact ⟨rfl, rfl⟩
  rcases h with ⟨rfl, rfl, ⟨rfl, rfl⟩, rfl⟩ | ⟨-, h⟩
  case inl => exact ⟨rfl, rfl⟩
  rcases h with ⟨rfl, rfl, nowValid, rfl, rfl⟩ | ⟨-, h⟩
  case inl => exact ⟨rfl, rfl⟩
  rcases h with ⟨rfl, rfl, nowValid, rfl, rfl⟩ | ⟨-, h⟩
  case inl => exact ⟨rfl, rfl⟩
  rcases h with ⟨rfl, nowValid, rfl, rfl⟩ | ⟨-, h⟩
  case inl => exact ⟨rfl, rfl⟩
  obtain ⟨hsync, rfl, nowValid, rfl, rfl⟩ := h
  exact ⟨beq_iff_eq.mpr hsync, rfl⟩

/-- Form 5. -/
theorem encodeFields_of_decodeManForm {f : OpFields} {i : Instr} (hform : f.form = 5#8)
    (h : decodeManForm f = .ok i) : i.wellFormed = true ∧ encodeFields i = f := by
  obtain ⟨sel, now, arg, form, val⟩ := f
  simp only [decodeManForm, ite_eq_ok_iff, bare_eq_ok_iff, clocked_eq_ok_iff, timeless_eq_ok_iff,
    reduceCtorEq, and_false, or_false] at h hform
  subst hform
  rcases h with ⟨rfl, rfl, ⟨rfl, rfl⟩, rfl⟩ | ⟨-, h⟩
  case inl => exact ⟨rfl, rfl⟩
  rcases h with ⟨rfl, rfl, ⟨rfl, rfl⟩, rfl⟩ | ⟨-, h⟩
  case inl => exact ⟨rfl, rfl⟩
  rcases h with ⟨rfl, rfl, nowValid, rfl, rfl⟩ | ⟨-, h⟩
  case inl => exact ⟨rfl, rfl⟩
  obtain ⟨rfl, rfl, nowValid, rfl, rfl⟩ := h
  exact ⟨rfl, rfl⟩

/-- Form 8: both rows have the brand as their selector, and the test on the brand tells them apart. -/
theorem encodeFields_of_decodeBrandForm {f : OpFields} {i : Instr} (hform : f.form = 8#8)
    (h : decodeBrandForm f = .ok i) : i.wellFormed = true ∧ encodeFields i = f := by
  obtain ⟨sel, now, arg, form, val⟩ := f
  simp only [decodeBrandForm, ite_eq_ok_iff, bare_eq_ok_iff, timeless_eq_ok_iff, reduceCtorEq, and_false,
    or_false] at h hform
  subst hform
  obtain ⟨hbrand, ⟨hset, rfl, ⟨rfl, rfl⟩, rfl⟩ | ⟨hset, rfl, ⟨rfl, rfl⟩, rfl⟩⟩ := h
  · exact ⟨hset, congrArg (OpFields.plain 8#8) hbrand.symm⟩
  · exact ⟨by simpa [Instr.wellFormed] using hset, congrArg (OpFields.plain 8#8) hbrand.symm⟩

/-- The word of a 1-bit operand. -/
theorem ite_eq_setWidth (a : BitVec 1) : (if a == 1#1 then 1#32 else 0#32) = a.setWidth 32 := by
  revert a; decide

/-- Every field of a word that decodes is what the operation makes of it: no field has a second spelling. -/
theorem encodeFields_of_decodeFields {f : OpFields} {i : Instr} (h : decodeFields f = .ok i) :
    i.wellFormed = true ∧ encodeFields i = f := by
  simp only [decodeFields, ite_eq_ok_iff] at h
  rcases h with ⟨hform, h⟩ | ⟨-, h⟩
  case inl => exact encodeFields_of_decodeTableForm hform h
  obtain ⟨sel, now, arg, form, val⟩ := f
  simp only [selected_eq_ok_iff, bare_eq_ok_iff, operand_eq_ok_iff, clocked_eq_ok_iff, timed_eq_ok_iff,
    timeless_eq_ok_iff, reduceCtorEq, and_false, or_false] at h
  rcases h with ⟨rfl, rfl, ⟨rfl, rfl⟩, rfl⟩ | ⟨-, h⟩
  case inl => exact ⟨rfl, rfl⟩
  rcases h with ⟨rfl, rfl, rfl, nowValid, rfl, rfl⟩ | ⟨-, h⟩
  case inl => exact ⟨rfl, rfl⟩
  rcases h with ⟨rfl, rfl, c, rfl, -, nowValid, rfl, rfl⟩ | ⟨-, h⟩
  case inl => exact ⟨rfl, rfl⟩
  rcases h with ⟨rfl, rfl, b, rfl, -, nowValid, rfl, rfl⟩ | ⟨-, h⟩
  case inl => exact ⟨rfl, rfl⟩
  rcases h with ⟨hform, h⟩ | ⟨-, h⟩
  case inl => exact encodeFields_of_decodeManForm hform h
  rcases h with ⟨rfl, rfl, d, rfl, -, nowValid, rfl, rfl⟩ | ⟨-, h⟩
  case inl => exact ⟨rfl, rfl⟩
  rcases h with ⟨rfl, rfl, rfl, nowValid, rfl, rfl⟩ | ⟨-, h⟩
  case inl => exact ⟨rfl, rfl⟩
  rcases h with ⟨hform, h⟩ | ⟨-, h⟩
  case inl => exact encodeFields_of_decodeBrandForm hform h
  rcases h with ⟨rfl, rfl, g, rfl, -, nowValid, rfl, rfl⟩ | ⟨-, h⟩
  case inl => exact ⟨rfl, by rw [encodeFields, ite_eq_setWidth]⟩
  rcases h with ⟨rfl, rfl, a, rfl, -, nowValid, rfl, rfl⟩ | ⟨-, h⟩
  case inl => exact ⟨rfl, by rw [encodeFields, append_extractLsb']⟩
  rcases h with ⟨rfl, rfl, a, rfl, -, nowValid, rfl, rfl⟩ | ⟨-, h⟩
  case inl => exact ⟨rfl, by rw [encodeFields, append_extractLsb']⟩
  obtain ⟨rfl, rfl, rfl, nowValid, rfl, rfl⟩ := h
  exact ⟨rfl, rfl⟩

theorem clocked_validField (sel : BitVec 64) (now : Time) (arg : BitVec 32) (form : Byte) (nowValid : Bool)
    (i : Time → Bool → Instr) :
    OpFields.clocked ⟨sel, now, arg, form, validField nowValid⟩ i = .ok (i now nowValid) :=
  (clocked_eq_ok_iff _ _ _).mpr ⟨nowValid, rfl, rfl⟩

theorem timed_validField (sel : BitVec 64) (now : Time) (arg : BitVec 32) (form : Byte) (nowValid : Bool)
    (i : Clock → Instr) :
    OpFields.timed ⟨sel, now, arg, form, validField nowValid⟩ i = .ok (i ⟨now, nowValid⟩) :=
  clocked_validField sel now arg form nowValid _

theorem operand_setWidth {n : Nat} (hn : n ≤ 32) (sel : BitVec 64) (now : Time) (a : BitVec n) (form val : Byte)
    (r : BitVec n → Except DecodeError Instr) :
    OpFields.operand ⟨sel, now, a.setWidth 32, form, val⟩ n r = r a := by
  simp [OpFields.operand, setWidth_setWidth_of_le hn]

/-- A selector with the sync pattern on top is none of the small selectors that form 0 tests first (rule R67). -/
theorem decodeTableForm_of_sync {p : Payload} (h : p.extractLsb' 48 16 = tableSync) (now : Time) (nowValid : Bool) :
    decodeTableForm ⟨p, now, 0#32, 0#8, validField nowValid⟩ = .ok (.crcCheck p now nowValid) := by
  have hne : ∀ k : BitVec 64, k.extractLsb' 48 16 ≠ tableSync → p ≠ k := fun k hk heq => hk (heq ▸ h)
  have hrows : p ≠ 0#64 ∧ p ≠ 1#64 ∧ p ≠ 2#64 ∧ p ≠ 3#64 ∧ p ≠ 4#64 ∧ p ≠ 5#64 ∧ p ≠ 6#64 ∧ p ≠ 7#64 ∧ p ≠ 16#64 :=
    ⟨hne _ (by decide), hne _ (by decide), hne _ (by decide), hne _ (by decide), hne _ (by decide),
      hne _ (by decide), hne _ (by decide), hne _ (by decide), hne _ (by decide)⟩
  simp [decodeTableForm, hrows, h, OpFields.bare, clocked_validField]

/-- Of a brand as selector the two rows of rule R66 leave exactly one. -/
theorem decodeBrandForm_plain (brand : BitVec 4) :
    decodeBrandForm (.plain 8#8 (brand.setWidth 64)) =
      if matches2gig brand then .ok (.crcPoly2gig brand) else .ok (.crcPolyDefault brand) := by
  have hback : (brand.setWidth 64).setWidth 4 = brand := by
    rw [BitVec.setWidth_setWidth_of_le _ (by decide), BitVec.setWidth_eq]
  simp [decodeBrandForm, OpFields.plain, hback, OpFields.bare, OpFields.timeless]

/-- Every well-formed operation, decoded from its fields. -/
theorem decodeFields_encodeFields (i : Instr) (h : i.wellFormed = true) : decodeFields (encodeFields i) = .ok i := by
  cases i with
  | idle | reset | manLowA0 | manLowA1 | manHighA0 | manHighA1 => rfl
  | envFilter m => rfl
  | sample m now nowValid | peakForward m now nowValid => exact clocked_validField _ _ _ _ _ _
  | rxfail now nowValid | envDecim now nowValid | manLowB0 now nowValid | manLowB1 now nowValid
  | manHighB0 now nowValid | manHighB1 now nowValid | frmDetect now nowValid =>
    exact clocked_validField _ _ _ _ _ _
  | sweep clock => exact timed_validField _ _ _ _ _ _
  | syncChip c now nowValid | manStep c now nowValid | frmShift c now nowValid =>
    simp [decodeFields, encodeFields, OpFields.selected, operand_setWidth, clocked_validField]
  | rxhMark g clock =>
    have hbit : (if g then 1#32 else 0#32) = (BitVec.ofBool g).setWidth 32 := by cases g <;> rfl
    have hback : (BitVec.ofBool g == 1#1) = g := by cases g <;> rfl
    simp [decodeFields, encodeFields, OpFields.selected, hbit, operand_setWidth, timed_validField, hback]
  | devUpdate serial status clock | devNotify serial status clock =>
    have hserial : (status ++ serial : BitVec 28).extractLsb' 0 20 = serial := BitVec.extractLsb'_append_eq_right
    have hstatus : (status ++ serial : BitVec 28).extractLsb' 20 8 = status := BitVec.extractLsb'_append_eq_left
    simp [decodeFields, encodeFields, OpFields.selected, operand_setWidth, timed_validField, hserial, hstatus]
  | crcCheck p now nowValid => exact decodeTableForm_of_sync (beq_iff_eq.mp h) now nowValid
  | crcPoly2gig brand => exact (decodeBrandForm_plain brand).trans (if_pos h)
  | crcPolyDefault brand =>
    have hunmatched : ¬ matches2gig brand = true := by simpa [Instr.wellFormed] using h
    exact (decodeBrandForm_plain brand).trans (if_neg hunmatched)

/-- Settles O6: the fields of a packed word are those it was packed from. -/
theorem decodeOfEncode : Obligations.DecodeOfEncode := by
  unfold Obligations.DecodeOfEncode
  intro i h
  rw [decode, encode, unpackWord_packWord, decodeFields_encodeFields i h]

/-- Settles O7: the word is that of its fields, which are those of the operation. -/
theorem encodeOfDecode : Obligations.EncodeOfDecode := by
  unfold Obligations.EncodeOfDecode
  intro w i h
  obtain ⟨hwf, hfields⟩ := encodeFields_of_decodeFields h
  exact ⟨hwf, by rw [encode, hfields, packWord_unpackWord]⟩

/-- Settles O3: the four codes are computed, and the idle code is the start of a step and nothing else. -/
theorem hostCodesAndTheIdleCode : Obligations.HostCodesAndTheIdleCode := by
  unfold Obligations.HostCodesAndTheIdleCode
  exact ⟨by decide, by decide, by decide, by decide, fun _ => rfl⟩

/-- Settles O8, by running the decoder on the seven words. -/
theorem writtenWordsDecode : Obligations.WrittenWordsDecode := by
  unfold Obligations.WrittenWordsDecode
  decide

theorem decode_of_decodeTableWord {nbits w : Nat} {i : Instr} (h : decodeTableWord nbits w = some i) :
    decode (tableWord nbits w) = .ok i := by
  unfold decodeTableWord at h
  split at h
  case h_1 j hdecode => rwa [Option.some.inj h] at hdecode
  case h_2 => cases h

theorem step_of_word {s : State} {w : OpWord} {rest : List OpWord} {i : Instr} (hinput : s.input = w :: rest)
    (hdecode : decode w = .ok i) : step s = exec i { s with input := rest } := by
  simp only [step, hinput, hdecode]

theorem step_of_no_input {s : State} (hinput : s.input = []) : step s = exec .idle s := by
  simp only [step, hinput]

theorem step_of_bad_word {s : State} {w : OpWord} {rest : List OpWord} {r : DecodeError} (hinput : s.input = w :: rest)
    (hdecode : decode w = .error r) : step s = .refused (.notAnOperation r) := by
  simp only [step, hinput, hdecode]

/-- Settles O5: the three ways a step goes, and that presenting a word and consuming it again changes nothing. -/
theorem stepRunsThePresentedOperation : Obligations.StepRunsThePresentedOperation := by
  unfold Obligations.StepRunsThePresentedOperation
  exact ⟨fun _ _ _ _ => step_of_word, fun _ => step_of_no_input, fun _ _ _ _ => step_of_bad_word,
    fun s nbits w i h => step_of_word (s := s.withFetchWord nbits w) rfl (decode_of_decodeTableWord h)⟩

end Sys2Proof.Proofs
end

section
/-! SUPPORT. The halted block and `RESET` (rules R222, R270), and the operations that a running block carries out in
one equation. -/

namespace Sys2Proof.Proofs

open Sys2Proof Sys2Proof.Machine

/-- Settles O1: `RESET` leaves the reset state, with the peak floor computed. -/
theorem resetLeavesTheResetValues : Obligations.ResetLeavesTheResetValues := by
  unfold Obligations.ResetLeavesTheResetValues
  intro s
  rw [exec_reset, resetBlock_startStep, State.reset, hardware_peakFloor]
  rfl

/-- A halted block carries out no operation but `RESET` (rules R23, R222). -/
theorem exec_halted {i : Instr} (hi : i ≠ .reset) {s : State} (h : s.halted = true) :
    exec i s = .next s.startStep := by
  have hcall : ∀ op, (.next (runCall s op) : Host.Outcome State Fault Refusal) = .next s.startStep :=
    fun op => congrArg _ (runCall_halted h op)
  have hplain : ∀ op, (.next (runPlain s op) : Host.Outcome State Fault Refusal) = .next s.startStep :=
    fun op => congrArg _ (runPlain_halted h op)
  cases i with
  | idle => rfl
  | reset => exact absurd rfl hi
  | envFilter | crcPoly2gig | crcPolyDefault | rxhMark | devUpdate | devNotify | sweep => exact hplain _
  | sample | rxfail | envDecim | peakForward | syncChip | manStep | manLowA0 | manLowA1 | manLowB0 | manLowB1
  | manHighA0 | manHighA1 | manHighB0 | manHighB1 | frmShift | frmDetect | crcCheck => exact hcall _

/-- Settles O4. -/
theorem haltedBlockRunsOnlyReset : Obligations.HaltedBlockRunsOnlyReset := by
  unfold Obligations.HaltedBlockRunsOnlyReset
  intro i s hhalted
  exact ⟨fun hi => exec_halted hi hhalted, _, exec_reset s, rfl, rfl⟩

theorem exec_sample_running {s : State} (h : s.halted = false) (m : Binary32) (now : Time) (nowValid : Bool) :
    exec (.sample m now nowValid) s = .next (takeSample hardware m ⟨now, nowValid⟩ s.startStep).state :=
  congrArg _ (runCall_running h _)

/-- A sample is the decimator's step on the filtered state: to filter and to start a step are updates of different
fields (rule R223). -/
theorem exec_sample_eq_exec_envDecim {s : State} (h : s.halted = false) (m : Binary32) (now : Time)
    (nowValid : Bool) :
    exec (.sample m now nowValid) s =
      exec (.envDecim now nowValid) { s with smoothed := smoothe hardware s.smoothed m } := by
  rw [exec_sample_running h, exec_envDecim_running (s := { s with smoothed := smoothe hardware s.smoothed m }) h]
  rfl

/-- Settles O20: the decimator's step of O19 on the filtered state. -/
theorem sampleIsFilterThenDecimator : Obligations.SampleIsFilterThenDecimator := by
  unfold Obligations.SampleIsFilterThenDecimator
  intro s m now nowValid hrun
  rw [exec_sample_eq_exec_envDecim hrun, smoothe_hardware]
  have hdecim := decimatorForwardsEverySeventeenth
    { s with smoothed := fAdd (fMul 0x3F333333#32 s.smoothed) (fMul 0x3E99999A#32 m) } now nowValid hrun
  exact ⟨hdecim.1, rfl⟩

theorem manRow_of_phase {s : State} {row : Phase} (h : s.phase = row) (cfg : Config) (b : Bool) (clock : Clock) :
    manRow cfg row b clock s = manDecide cfg b clock s :=
  if_pos h

/-- A row whose state is not the machine's is not selected (log 6). -/
theorem manRow_of_other_phase {s : State} {row : Phase} (h : s.phase ≠ row) (cfg : Config) (b : Bool)
    (clock : Clock) : manRow cfg row b clock s = .returned s :=
  if_neg h

/-- A row of an A state, presented on its own: the transition where the row is selected, else nothing. -/
theorem runCall_manRow_of_A {s : State} (hrun : s.halted = false) {row : Phase} (hA : row = .lowA ∨ row = .highA)
    (b : Bool) (clock : Clock) :
    runCall s (manRow hardware row b clock) =
      { s.startStep with phase := if s.phase = row then nextPhase row b else s.phase } := by
  rw [runCall_running hrun]
  by_cases hphase : s.phase = row
  · have hstep : s.startStep.phase = .lowA ∨ s.startStep.phase = .highA := hphase.symm ▸ hA
    rw [manRow_of_phase (s := s.startStep) hphase, manDecide_of_A hstep, if_pos hphase, ← hphase]
    rfl
  · rw [manRow_of_other_phase (s := s.startStep) hphase, if_neg hphase]
    rfl

/-- Settles O29: the four rows of the A states. The two that stay in their state write the phase that was there. -/
theorem manRowsOfTheAStates : Obligations.ManRowsOfTheAStates := by
  unfold Obligations.ManRowsOfTheAStates
  intro s hrun
  have hrow (row : Phase) (hA : row = .lowA ∨ row = .highA) (b : Bool) :=
    congrArg (Host.Outcome.next (φ := Fault) (ρ := Refusal)) (runCall_manRow_of_A hrun hA b noClock)
  have hstays (row : Phase) : ({ s.startStep with phase := if s.phase = row then row else s.phase } : State) =
      s.startStep := by
    split
    case isTrue hphase => rw [← hphase]; rfl
    case isFalse => rfl
  refine ⟨(hrow .lowA (.inl rfl) false).trans ?_, hrow .lowA (.inl rfl) true, hrow .highA (.inr rfl) false,
    (hrow .highA (.inr rfl) true).trans ?_⟩
  · exact congrArg _ (hstays .lowA)
  · exact congrArg _ (hstays .highA)

theorem exec_crcPoly2gig_running {s : State} (h : s.halted = false) (brand : BitVec 4) :
    exec (.crcPoly2gig brand) s = .next (crcPoly2gig hardware brand s.startStep) :=
  congrArg _ (runPlain_running h _)

theorem exec_crcPolyDefault_running {s : State} (h : s.halted = false) (brand : BitVec 4) :
    exec (.crcPolyDefault brand) s = .next (crcPolyDefault hardware brand s.startStep) :=
  congrArg _ (runPlain_running h _)

/-- The brands of the 2GIG row (rule R66). -/
theorem is2gig_hardware (brand : BitVec 4) : is2gig hardware brand = true ↔ brand = 2#4 ∨ brand = 10#4 := by
  simp [is2gig, hardware]

/-- Settles O38: one test of the brand decides both rows. -/
theorem brandSelectsThePolynomial : Obligations.BrandSelectsThePolynomial := by
  unfold Obligations.BrandSelectsThePolynomial
  intro s brand hrun
  rw [exec_crcPoly2gig_running hrun, exec_crcPolyDefault_running hrun, crcPoly2gig, crcPolyDefault]
  simp only [is2gig_hardware]
  split
  case isTrue => exact ⟨rfl, rfl⟩
  case isFalse => exact ⟨rfl, rfl⟩

/-- Settles O59: the comparisons and masks of rule R7 on this hardware's words; its sweep order is the given one. -/
theorem hardwareValuesAreAllowed : Obligations.HardwareValuesAreAllowed := by
  unfold Obligations.HardwareValuesAreAllowed
  have allowed : hardware.Allowed :=
    { ratio_pos := by decide
      ratio_lt_one := by decide
      threshold_pos := by decide
      decay_pos := by decide
      sync_nonzero := by decide
      poly2gig_17bit := by decide
      polyDefault_17bit := by decide
      loop_not_tamper := by decide
      loop_not_battery := by decide
      loop_has_b0 := by decide
      sweep_visits_all := fun serials => .refl serials }
  exact ⟨allowed, hardware_oneMinusAlpha, hardware_peakFloor⟩

/-- What `RESET` leaves satisfies the invariant, whatever state it was given. -/
theorem resetBlock_inv (s : State) : (resetBlock hardware s).Inv where
  registry_wf := .nil
  decim_le := Nat.zero_le 16
  window_clean := fun _ => (by decide : syncOf 0#64 ≠ 0xFFFE#16)
  cause_running := fun _ => rfl
  cause_halted := fun h => nomatch h

/-- Settles O9: the reset state is one that `RESET` leaves, and its peak starts at the floor. -/
theorem invariantHoldsAtReset : Obligations.InvariantHoldsAtReset := by
  unfold Obligations.InvariantHoldsAtReset
  have hreset : resetBlock hardware State.reset.startStep = State.reset := by rw [resetBlock_startStep]
  have hpeak : peakInRange 0x3EAAAAAB#32 := ⟨by decide, by decide⟩
  exact ⟨hreset ▸ resetBlock_inv _, reset_ookMax ▸ hpeak⟩

end Sys2Proof.Proofs
end

section
/-! SUPPORT. What the spec derives of the bit path: the run-length law (rule R114), the Manchester round trip
(rules R129, R130) and the window of the frame register (rules R44, R141). -/

namespace Sys2Proof.Proofs

open Sys2Proof Sys2Proof.Machine

/-- Within a run every chip counts one more, and of the counts up to `n` every eighth from 4 on is sampled. -/
theorem length_midBits_runCounts (c : BitVec 1) (count n : Nat) :
    ((runCounts c c count n).filter (isMidBit hardware)).length = (count + n + 4) / 8 - (count + 4) / 8 := by
  induction n generalizing count with
  | zero => simp [runCounts]
  | succ n ih =>
    have hcount : countChip c c count = count + 1 := if_neg (not_not_intro rfl)
    rw [runCounts, hcount, List.filter_cons]
    split
    case isTrue hmid =>
      have hfour := (isMidBit_hardware _).mp hmid
      rw [List.length_cons, ih]
      omega
    case isFalse hbetween =>
      have hother := mt (isMidBit_hardware _).mpr hbetween
      rw [ih]
      omega

/-- Settles O26: an edge and a counter of 0 both make the first chip of the run count 1. -/
theorem runLengthLaw : Obligations.RunLengthLaw := by
  unfold Obligations.RunLengthLaw
  intro c last count n hstart
  cases n with
  | zero => rfl
  | succ n =>
    have hfirst : countChip c last count = countChip c c 0 := by
      rcases hstart with hedge | rfl
      · exact (if_pos hedge).trans (if_neg (not_not_intro rfl)).symm
      · by_cases hedge : c = last
        · rw [hedge]
        · exact (if_pos hedge).trans (if_neg (not_not_intro rfl)).symm
    have hrun := length_midBits_runCounts c 0 (n + 1)
    rw [runCounts] at hrun ⊢
    rw [hfirst, hrun]
    omega

/-- The B state in which a decoded bit is pending. -/
def pendingPhase (b : Bool) : Phase := if b then .highB else .lowB

/-- A bit as the argument of `FRM.SHIFT`. -/
def bitByte (b : Bool) : Byte := if b then 1#8 else 0#8

theorem pendingBit_pendingPhase (b : Bool) : pendingBit (pendingPhase b) = some (bitByte b) := by
  cases b <;> rfl

/-- The first half-bit cell of a bit takes a machine with a bit pending to an A state, and the second takes it to the
B state of the new bit (rules R121, R129). -/
theorem nextPhase_halfCells (b d : Bool) :
    pendingBit (nextPhase (pendingPhase b) (!d)) = none ∧
      nextPhase (nextPhase (pendingPhase b) (!d)) d = pendingPhase d := by
  cases b <;> cases d <;> exact ⟨rfl, rfl⟩

/-- With a bit pending, the half-bit cells of further bits bring out the pending bit and then all but the last, which
the one further sample brings out. -/
theorem emittedBits_halfCells (b : Bool) (bits : List Bool) (last : Bool) :
    emittedBits (pendingPhase b) (bits.flatMap halfCells ++ [last]) = (b :: bits).map bitByte := by
  induction bits generalizing b with
  | nil => simp [emittedBits, pendingBit_pendingPhase]
  | cons d rest ih =>
    obtain ⟨hA, hB⟩ := nextPhase_halfCells b d
    simp [halfCells, emittedBits, pendingBit_pendingPhase, hA, hB, ih]

/-- Settles O32: from LowA the two cells of the leading 1 emit nothing and leave it pending. -/
theorem manchesterRoundTrip : Obligations.ManchesterRoundTrip := by
  unfold Obligations.ManchesterRoundTrip
  intro bits last
  exact emittedBits_halfCells true bits last

/-- One insertion moves every bit up and puts the new one at the bottom. -/
theorem getLsbD_shiftIn (frame : BitVec 64) (b : Bool) {k : Nat} (hk : k < 64) :
    (shiftIn frame (bitByte b)).getLsbD k = if k = 0 then b else frame.getLsbD (k - 1) := by
  have hbit : (bitByte b).getLsbD k = (decide (k = 0) && b) := by
    cases b
    · simp [bitByte]
    · simp [bitByte, BitVec.getLsbD_one]
  rw [shiftIn, BitVec.getLsbD_or, BitVec.getLsbD_shiftLeft, BitVec.getLsbD_setWidth, hbit]
  by_cases hzero : k = 0
  · simp [hzero]
  · have hpos : ¬ k < 1 := by omega
    simp [hzero, hk, hpos]

/-- After insertions bit `k` is the bit inserted `k` before the newest, or else a bit of the old content moved up. -/
theorem getLsbD_foldl_shiftIn (frame : BitVec 64) (bits : List Bool) {k : Nat} (hk : k < 64) :
    (bits.foldl (fun f b => shiftIn f (bitByte b)) frame).getLsbD k =
      if k < bits.length then bits.reverse.getD k false else frame.getLsbD (k - bits.length) := by
  induction bits using List.reverseRecOn generalizing k with
  | nil => simp
  | append_singleton rest b ih =>
    rw [List.foldl_append, List.foldl_cons, List.foldl_nil, getLsbD_shiftIn _ _ hk]
    cases k with
    | zero => simp
    | succ k =>
      have hk' : k < 64 := by omega
      simp [ih hk']

/-- Settles O35: of 64 inserted bits none is from the old content. -/
theorem registerHoldsTheLast64Bits : Obligations.RegisterHoldsTheLast64Bits := by
  unfold Obligations.RegisterHoldsTheLast64Bits
  intro frame bits k hlength hk
  exact (getLsbD_foldl_shiftIn frame bits hk).trans (if_pos (hlength.symm ▸ hk))

end Sys2Proof.Proofs
end

section
/-! SUPPORT. The division of rule R153 as a linear map, and the properties of the check that rule R156 derives. -/

namespace Sys2Proof.Proofs

open Sys2Proof Sys2Proof.Machine

theorem getLsbD_divisionStep (poly : Poly) (sum : BitVec 48) (i j : Nat) :
    (divisionStep poly sum i).getLsbD j =
      (sum.getLsbD j ^^ (sum.getLsbD (i + 16) && (decide (j < 48) && !decide (j < i) && poly.getLsbD (j - i)))) := by
  unfold divisionStep
  split
  case isTrue hbit =>
    rw [hbit, Bool.true_and, BitVec.getLsbD_xor, BitVec.getLsbD_shiftLeft, BitVec.getLsbD_setWidth]
    by_cases hj : j < 48
    · have hwide : j - i < 48 := by omega
      simp [hwide]
    · simp [hj]
  case isFalse hbit => simp [hbit]

theorem divisionStep_xor (poly : Poly) (a b : BitVec 48) (i : Nat) :
    divisionStep poly (a ^^^ b) i = divisionStep poly a i ^^^ divisionStep poly b i := by
  refine BitVec.eq_of_getLsbD_eq fun j _ => ?_
  simp only [getLsbD_divisionStep, BitVec.getLsbD_xor]
  grind

/-- The remainder of a sum is the sum of the remainders. -/
theorem divisionLoop_xor (poly : Poly) (n : Nat) (a b : BitVec 48) :
    divisionLoop poly n (a ^^^ b) = divisionLoop poly n a ^^^ divisionLoop poly n b := by
  induction n generalizing a b with
  | zero => rfl
  | succ n ih => rw [divisionLoop, divisionStep_xor, ih]; rfl

/-- The iterations in front of the leading bit of the sum do nothing. -/
theorem divisionLoop_skip (poly : Poly) {n start : Nat} (hstart : start ≤ n) {sum : BitVec 48}
    (h : ∀ j, start + 16 ≤ j → sum.getLsbD j = false) : divisionLoop poly n sum = divisionLoop poly start sum := by
  induction n with
  | zero => rw [Nat.le_zero.mp hstart]
  | succ n ih =>
    rcases Nat.eq_or_lt_of_le hstart with rfl | hlater
    · rfl
    · have hstep : divisionStep poly sum n = sum := if_neg (by rw [h (n + 16) (by omega)]; exact Bool.false_ne_true)
      rw [divisionLoop, hstep, ih (by omega)]

/-- The iteration `i` clears bit `i + 16` with the leading bit of the polynomial and sets no bit above it. -/
theorem divisionStep_clears {poly : Poly} (hpoly : poly.getLsbD 16 = true) {sum : BitVec 48} {i : Nat}
    (h : ∀ j, i + 1 + 16 ≤ j → sum.getLsbD j = false) {j : Nat} (hj : i + 16 ≤ j) :
    (divisionStep poly sum i).getLsbD j = false := by
  rw [getLsbD_divisionStep]
  rcases Nat.eq_or_lt_of_le hj with rfl | habove
  · have hlead : i + 16 - i = 16 := by omega
    by_cases hwide : i + 16 < 48
    · simp [hlead, hpoly, hwide]
    · simp [BitVec.getLsbD_of_ge sum (i + 16) (by omega)]
  · have hdegree : poly.getLsbD (j - i) = false := BitVec.getLsbD_of_ge _ _ (by omega)
    simp [h j (by omega), hdegree]

theorem divisionLoop_clears {poly : Poly} (hpoly : poly.getLsbD 16 = true) (n : Nat) {sum : BitVec 48}
    (h : ∀ j, n + 16 ≤ j → sum.getLsbD j = false) {j : Nat} (hj : 16 ≤ j) :
    (divisionLoop poly n sum).getLsbD j = false := by
  induction n generalizing sum with
  | zero => exact h j (by omega)
  | succ n ih => exact ih fun j hj => divisionStep_clears hpoly h hj

/-- The 32 iterations of rule R153 leave no bit above the low 16. -/
theorem getLsbD_remainder {poly : Poly} (hpoly : poly.getLsbD 16 = true) (sum : BitVec 48) {j : Nat} (hj : 16 ≤ j) :
    (divisionLoop poly 32 sum).getLsbD j = false :=
  divisionLoop_clears hpoly 32 (fun _ h => BitVec.getLsbD_of_ge _ _ h) hj

/-- Settles O39. -/
theorem remainderHasSixteenBits : Obligations.RemainderHasSixteenBits := by
  unfold Obligations.RemainderHasSixteenBits
  intro poly dividend hpoly
  exact Nat.lt_pow_two_of_testBit _ fun j hj => getLsbD_remainder hpoly dividend hj

/-- Both polynomials of this hardware have 17 bits (rule R7). -/
theorem polyOf_hardware_getLsbD (brand : BitVec 4) : (polyOf hardware brand).getLsbD 16 = true := by
  rw [polyOf_hardware]
  split <;> rfl

/-- The check field is the remainder of the data shifted up, with nothing cut off. -/
theorem setWidth_crc16 {poly : Poly} (hpoly : poly.getLsbD 16 = true) (w : BitVec 32) :
    (crc16 poly w).setWidth 48 = divisionLoop poly 32 (w.setWidth 48 <<< 16) := by
  refine BitVec.eq_of_getLsbD_eq fun j hj => ?_
  rw [crc16, BitVec.getLsbD_setWidth, BitVec.getLsbD_setWidth]
  by_cases hlow : j < 16
  · simp [hj, hlow]
  · rw [getLsbD_remainder hpoly _ (by omega)]
    simp [hlow]

/-- Data followed by its check field leaves no remainder: the check field is its own remainder and that of the data. -/
theorem divisionLoop_append_crc16 {poly : Poly} (hpoly : poly.getLsbD 16 = true) (w : BitVec 32) :
    divisionLoop poly 32 (w ++ crc16 poly w) = 0#48 := by
  have hsplit : (w ++ crc16 poly w : BitVec 48) = w.setWidth 48 <<< 16 ^^^ (crc16 poly w).setWidth 48 := by
    refine BitVec.eq_of_getLsbD_eq fun j hj => ?_
    rw [BitVec.getLsbD_append, BitVec.getLsbD_xor, BitVec.getLsbD_shiftLeft, BitVec.getLsbD_setWidth,
      BitVec.getLsbD_setWidth]
    by_cases hlow : j < 16
    · simp [hlow, hj]
    · have hwide : j - 16 < 48 := by omega
      simp [hlow, hj, hwide, BitVec.getLsbD_of_ge (crc16 poly w) j (by omega)]
  have hfixed : divisionLoop poly 32 ((crc16 poly w).setWidth 48) = (crc16 poly w).setWidth 48 := by
    refine divisionLoop_skip poly (start := 0) (Nat.zero_le 32) fun j hj => ?_
    rw [BitVec.getLsbD_setWidth, BitVec.getLsbD_of_ge _ _ (by omega), Bool.and_false]
  rw [hsplit, divisionLoop_xor, hfixed, setWidth_crc16 hpoly, BitVec.xor_self]

/-- A 64-bit payload by its fields (rule R61). -/
theorem fields_of_append (sync : BitVec 16) (brand : BitVec 4) (serial : Serial) (status : Byte) (crc : BitVec 16) :
    let w : BitVec 32 := brand ++ serial ++ status
    let p : Payload := sync ++ w ++ crc
    syncOf p = sync ∧ nonsync p = w ++ crc ∧ brandOf p = brand ∧ serialOf p = serial ∧ statusOf p = status := by
  intro w p
  refine ⟨?_, ?_, ?_, ?_, ?_⟩
  all_goals
    refine BitVec.eq_of_getLsbD_eq fun j hj => ?_
    simp only [p, w, syncOf, nonsync, brandOf, serialOf, statusOf, BitVec.getLsbD_extractLsb', BitVec.getLsbD_append]
    grind

/-- Settles O40. -/
theorem frameWordIsValid : Obligations.FrameWordIsValid := by
  unfold Obligations.FrameWordIsValid
  intro brand serial status
  obtain ⟨hsync, hnonsync, hbrand, hserial, hstatus⟩ := fields_of_append hardware.syncPattern brand serial status
    (crc16 (polyOf hardware brand) (brand ++ serial ++ status))
  refine ⟨?_, hsync, hbrand, hserial, hstatus⟩
  rw [crcValid_iff, frameWord, hbrand, hnonsync]
  exact divisionLoop_append_crc16 (polyOf_hardware_getLsbD brand) _

theorem nonsync_flip (p : Payload) {k : Nat} (hk : k < 48) : nonsync (p ^^^ 1#64 <<< k) = nonsync p ^^^ 1#48 <<< k := by
  refine BitVec.eq_of_getLsbD_eq fun j hj => ?_
  simp only [nonsync, BitVec.getLsbD_xor, BitVec.getLsbD_extractLsb', BitVec.getLsbD_shiftLeft, BitVec.getLsbD_one]
  grind

/-- An iteration that subtracts puts the lowest term of the polynomial below every bit of the sum, so that bit stays,
and the sum never becomes zero. -/
theorem divisionLoop_ne_zero {poly : Poly} {m : Nat} (hterm : poly.getLsbD m = true)
    (hbelow : ∀ j, j < m → poly.getLsbD j = false) (n : Nat) {sum : BitVec 48} {b : Nat} (hb : 0 < n → n + m ≤ b)
    (hset : sum.getLsbD b = true) (hlowest : ∀ j, j < b → sum.getLsbD j = false) :
    divisionLoop poly n sum ≠ 0#48 := by
  induction n generalizing sum b with
  | zero =>
    intro hzero
    have hclear : sum.getLsbD b = false := by rw [show sum = 0#48 from hzero, BitVec.getLsbD_zero]
    exact absurd hset (Bool.eq_false_iff.mp hclear)
  | succ n ih =>
    have hroom : n + 1 + m ≤ b := hb n.succ_pos
    by_cases hsubtract : sum.getLsbD (n + 16) = true
    · have hwide : b < 48 := BitVec.lt_of_getLsbD hset
      refine ih (b := n + m) (fun _ => le_rfl) ?_ fun j hj => ?_
      · have hplace : n + m < 48 := by omega
        simp [getLsbD_divisionStep, hlowest (n + m) (by omega), hsubtract, hplace, hterm]
      · by_cases hjn : j < n
        · simp [getLsbD_divisionStep, hlowest j (by omega), hjn]
        · simp [getLsbD_divisionStep, hlowest j (by omega), hbelow (j - n) (by omega)]
    · rw [divisionLoop, divisionStep, if_neg hsubtract]
      exact ih (fun _ => by omega) hset hlowest

/-- A polynomial with a term below its leading one divides no power of x. -/
theorem remainder_of_one_bit {poly : Poly} {m : Nat} (hm : m < 16) (hterm : poly.getLsbD m = true)
    (hbelow : ∀ j, j < m → poly.getLsbD j = false) {k : Nat} (hk : k < 48) :
    divisionLoop poly 32 (1#48 <<< k) ≠ 0#48 := by
  have hbit : ∀ j, (1#48 <<< k).getLsbD j = decide (j = k) := by
    intro j
    rw [BitVec.getLsbD_shiftLeft, BitVec.getLsbD_one]
    grind
  rw [divisionLoop_skip poly (start := k - 15) (by omega) fun j hj => by rw [hbit]; exact decide_eq_false (by omega)]
  exact divisionLoop_ne_zero (b := k) hterm hbelow (k - 15) (fun hlong => by omega)
    (by rw [hbit]; exact decide_eq_true rfl) fun j hj => by rw [hbit]; exact decide_eq_false hj.ne

/-- The lowest terms of the two polynomials are `x ^ 4` and 1. -/
theorem polyOf_hardware_lowestTerm (brand : BitVec 4) :
    ∃ m, m < 16 ∧ (polyOf hardware brand).getLsbD m = true ∧
      ∀ j, j < m → (polyOf hardware brand).getLsbD j = false := by
  rw [polyOf_hardware]
  split
  · exact ⟨4, by decide, rfl, by decide⟩
  · exact ⟨0, by decide, rfl, by decide⟩

/-- Settles O41: the remainders of the two payloads differ by that of the flipped bit. -/
theorem singleBitFlipIsDetected : Obligations.SingleBitFlipIsDetected := by
  unfold Obligations.SingleBitFlipIsDetected
  intro p k hk hvalid flipped hclass
  rw [crcValid_iff] at hvalid
  rw [Bool.eq_false_iff, ne_eq, crcValid_iff, hclass, nonsync_flip p hk, divisionLoop_xor, hvalid, BitVec.zero_xor]
  obtain ⟨m, hm, hterm, hbelow⟩ := polyOf_hardware_lowestTerm (brandOf p)
  exact remainder_of_one_bit hm hterm hbelow hk

/-- A polynomial without the terms below `x ^ m` leaves the low `m` bits of the sum as they are. -/
theorem getLsbD_divisionLoop_of_low {poly : Poly} {m : Nat} (hpoly : ∀ j, j < m → poly.getLsbD j = false) (n : Nat)
    (sum : BitVec 48) {j : Nat} (hj : j < m) : (divisionLoop poly n sum).getLsbD j = sum.getLsbD j := by
  induction n generalizing sum with
  | zero => rfl
  | succ n ih =>
    rw [divisionLoop, ih, getLsbD_divisionStep, hpoly (j - n) (by omega)]
    simp

/-- Settles O42: `x ^ 4` divides the 2GIG polynomial. -/
theorem validTwoGigPayloadsEndInZeros : Obligations.ValidTwoGigPayloadsEndInZeros := by
  unfold Obligations.ValidTwoGigPayloadsEndInZeros
  intro p hbrand hvalid
  rw [crcValid_iff, polyOf_hardware, if_pos hbrand] at hvalid
  have hterms : ∀ j, j < 4 → (0x18050#17).getLsbD j = false := by decide
  have hmask : ∀ j, j < 64 → ¬ j < 4 → (0xF#64).getLsbD j = false := by decide
  have hlow : ∀ j, j < 4 → p.getLsbD j = false := by
    intro j hj
    have hsame := getLsbD_divisionLoop_of_low hterms 32 (nonsync p) hj
    rw [hvalid, nonsync, BitVec.getLsbD_extractLsb'] at hsame
    simpa [show j < 48 by omega] using hsame.symm
  refine BitVec.eq_of_getLsbD_eq fun j hj => ?_
  rw [BitVec.getLsbD_and]
  by_cases hj4 : j < 4
  · simp [hlow j hj4]
  · rw [hmask j hj hj4, Bool.and_false, BitVec.getLsbD_zero]

end Sys2Proof.Proofs
end

section
/-! SUPPORT. The packing of a record (rule R64). -/

namespace Sys2Proof.Proofs

open Sys2Proof Sys2Proof.Machine

/-- Settles O56: both ways the eight fields lie next to one another and fill the 148 bits. -/
theorem recordPackingRoundTrip : Obligations.RecordPackingRoundTrip := by
  unfold Obligations.RecordPackingRoundTrip
  intro e bits
  refine ⟨?unpacked, ?packed⟩
  case unpacked =>
    obtain ⟨baseline, alarm, tamper, batteryLow, timeout, raw, updateTime, alarmTime⟩ := e
    simp only [DeviceState.unpack, DeviceState.pack, DeviceState.mk.injEq]
    refine ⟨?baseline, ?alarm, ?tamper, ?batteryLow, ?timeout, ?raw, ?updateTime, ?alarmTime⟩
    case alarm | tamper | batteryLow | timeout =>
      simp only [BitVec.getLsbD_append, BitVec.getLsbD_ofBool]
      grind
    case baseline | raw | updateTime | alarmTime =>
      refine BitVec.eq_of_getLsbD_eq fun k hk => ?_
      simp only [BitVec.getLsbD_append, BitVec.getLsbD_extractLsb']
      grind
  case packed =>
    refine BitVec.eq_of_getLsbD_eq fun k hk => ?_
    simp only [DeviceState.pack, DeviceState.unpack, BitVec.getLsbD_append, BitVec.getLsbD_extractLsb',
      BitVec.getLsbD_ofBool]
    grind

end Sys2Proof.Proofs
end

section
/-! SUPPORT. binary32 words as numbers (rules R8, R69): the fields of a word, the words that are NaNs, the order, and
the bounds that the one rounding keeps. -/

namespace Sys2Proof.Proofs

open Sys2Proof Sys2Proof.Machine

theorem fNeg_eq (x : Binary32) : fNeg x = decide (2 ^ 31 ≤ x.toNat) := by
  have hbound := x.isLt
  rw [fNeg, BitVec.getLsbD, Nat.testBit_eq_decide_div_mod_eq, decide_eq_decide]
  omega

theorem fBiased_eq (x : Binary32) : fBiased x = x.toNat / 2 ^ 23 % 2 ^ 8 := by
  rw [fBiased, BitVec.extractLsb'_toNat, Nat.shiftRight_eq_div_pow]

theorem fFraction_eq (x : Binary32) : fFraction x = x.toNat % 2 ^ 23 := by
  rw [fFraction, BitVec.extractLsb'_toNat, Nat.shiftRight_zero]

/-- The low 31 bits of a word: its magnitude in the order of the words of one sign. -/
def fMagnitude (x : Binary32) : Nat := x.toNat % 2 ^ 31

theorem fKey_eq (x : Binary32) : fKey x = if fNeg x then -(fMagnitude x : Int) else (fMagnitude x : Int) := by
  rw [fKey, BitVec.extractLsb'_toNat, Nat.shiftRight_zero, fMagnitude]

/-- The NaNs are the words above an infinity. -/
theorem fIsNaN_iff (x : Binary32) : fIsNaN x = true ↔ fInfMagnitude < fMagnitude x := by
  rw [fIsNaN, Bool.and_eq_true, beq_iff_eq, bne_iff_ne, fBiased_eq, fFraction_eq, fMagnitude, fInfMagnitude]
  omega

/-- The infinities are the two words whose magnitude is that of an infinity. -/
theorem fIsInf_iff (x : Binary32) : fIsInf x = true ↔ fMagnitude x = fInfMagnitude := by
  rw [fIsInf, Bool.and_eq_true, beq_iff_eq, beq_iff_eq, fBiased_eq, fFraction_eq, fMagnitude, fInfMagnitude]
  omega

theorem fWord_toNat (neg : Bool) {magnitude : Nat} (h : magnitude < 2 ^ 31) :
    (fWord neg magnitude).toNat = magnitude + if neg then 2 ^ 31 else 0 := by
  rw [fWord, BitVec.toNat_ofNat]
  cases neg <;> simp only [Bool.false_eq_true, if_true, if_false] <;> omega

theorem fMagnitude_fWord (neg : Bool) {magnitude : Nat} (h : magnitude < 2 ^ 31) :
    fMagnitude (fWord neg magnitude) = magnitude := by
  rw [fMagnitude, fWord_toNat neg h]
  cases neg <;> simp only [Bool.false_eq_true, if_true, if_false] <;> omega

theorem fNeg_fWord (neg : Bool) {magnitude : Nat} (h : magnitude < 2 ^ 31) : fNeg (fWord neg magnitude) = neg := by
  rw [fNeg_eq, fWord_toNat neg h]
  cases neg with
  | false => exact decide_eq_false (by simpa using h)
  | true => exact decide_eq_true (by simp)

/-- A word is its sign and its magnitude. -/
theorem eq_of_fNeg_of_fMagnitude {x y : Binary32} (hneg : fNeg x = fNeg y) (hmag : fMagnitude x = fMagnitude y) :
    x = y := by
  have hx := x.isLt
  have hy := y.isLt
  refine BitVec.eq_of_toNat_eq ?_
  rw [fNeg_eq, fNeg_eq, decide_eq_decide] at hneg
  unfold fMagnitude at hmag
  omega

/-- The free NaN is a NaN (log 8). -/
theorem fIsNaN_fNaN (op : FloatOp) (a b : Binary32) : fIsNaN (fNaN op a b) = true := by
  have hfraction := (BitVec.extractLsb' 0 23 (Config.freeNaN op a b)).isLt
  rw [fIsNaN_iff, fNaN, fMagnitude_fWord]
  all_goals
    unfold fInfMagnitude
    split <;> omega

theorem fSum_of_isNaN {a b : Binary32} (h : fIsNaN a = true ∨ fIsNaN b = true) (nan : Binary32) :
    fSum nan a b = nan :=
  if_pos (Bool.or_eq_true _ _ ▸ h)

theorem fAdd_of_isNaN {a b : Binary32} (h : fIsNaN a = true ∨ fIsNaN b = true) : fIsNaN (fAdd a b) = true := by
  rw [fAdd, fSum_of_isNaN h, fIsNaN_fNaN]

theorem fMul_of_isNaN {a b : Binary32} (h : fIsNaN a = true ∨ fIsNaN b = true) : fIsNaN (fMul a b) = true := by
  have hnan : (fIsNaN a || fIsNaN b) = true := Bool.or_eq_true _ _ ▸ h
  rw [fMul, if_pos hnan, fIsNaN_fNaN]

/-- Settles O17: the product with the NaN is a NaN, and so is the sum with that product. -/
theorem naNStaysInTheFilter : Obligations.NaNStaysInTheFilter := by
  unfold Obligations.NaNStaysInTheFilter
  intro s m hrun hnan
  refine ⟨_, exec_envFilter_running hrun m, ?_⟩
  rw [envFilter_smoothed, startStep_smoothed, smoothe_hardware]
  exact fAdd_of_isNaN (hnan.imp (fun h => fMul_of_isNaN (.inr h)) (fun h => fMul_of_isNaN (.inr h)))

/-- The sum of two finite words: exact, then rounded once. -/
def finiteSum (a b : Binary32) : Binary32 :=
  let e := min (fExp a) (fExp b)
  let sum := fScaled a e + fScaled b e
  if sum = 0 then fWord (fNeg a && fNeg b) 0 else fRound (decide (sum < 0)) sum.natAbs e

theorem finiteSum_comm (a b : Binary32) : finiteSum a b = finiteSum b a := by
  unfold finiteSum
  simp only [min_comm (fExp b), add_comm (fScaled b _), Bool.and_comm (fNeg b)]

/-- The sum of two words that are no NaNs, by which of them are infinite. -/
theorem fSum_of_not_isNaN {a b : Binary32} (ha : fIsNaN a = false) (hb : fIsNaN b = false) (nan : Binary32) :
    fSum nan a b =
      if fIsInf a then if fIsInf b && (fNeg a != fNeg b) then nan else a
      else if fIsInf b then b
      else finiteSum a b := by
  simp only [fSum, finiteSum, ha, hb, Bool.or_self, Bool.false_eq_true, if_false]

/-- A sum does not depend on the order of its operands, but for which NaN it is. -/
theorem fSum_comm {nan a b : Binary32} (hnan : fIsNaN nan = true) (hsum : fIsNaN (fSum nan a b) = false)
    (other : Binary32) : fSum nan a b = fSum other b a := by
  have hne : fSum nan a b ≠ nan := fun h => by rw [h, hnan] at hsum; cases hsum
  have ha : fIsNaN a = false := Bool.eq_false_iff.mpr fun h => hne (fSum_of_isNaN (.inl h) nan)
  have hb : fIsNaN b = false := Bool.eq_false_iff.mpr fun h => hne (fSum_of_isNaN (.inr h) nan)
  rw [fSum_of_not_isNaN ha hb] at hne ⊢
  rw [fSum_of_not_isNaN hb ha]
  cases hia : fIsInf a <;> cases hib : fIsInf b
  case false.false => simp [finiteSum_comm a b]
  case false.true => simp
  case true.false => simp
  case true.true =>
    rw [hia, hib] at hne
    have hsign : fNeg a = fNeg b := by
      by_contra hdiffer
      exact hne (by simp [hdiffer])
    have hmag : fMagnitude a = fMagnitude b := ((fIsInf_iff a).mp hia).trans ((fIsInf_iff b).mp hib).symm
    rw [eq_of_fNeg_of_fMagnitude hsign hmag]
    simp

/-- The product of two words that are no NaNs. -/
theorem fMul_of_not_isNaN {a b : Binary32} (ha : fIsNaN a = false) (hb : fIsNaN b = false) :
    fMul a b =
      if fIsInf a || fIsInf b then
        if fIsZero a || fIsZero b then fNaN .mul a b else fWord (fNeg a != fNeg b) fInfMagnitude
      else fRound (fNeg a != fNeg b) (fMant a * fMant b) (fExp a + fExp b) := by
  simp only [fMul, ha, hb, Bool.or_self, Bool.false_eq_true, if_false]

theorem fMul_comm {a b : Binary32} (hproduct : fIsNaN (fMul a b) = false) : fMul a b = fMul b a := by
  have ha : fIsNaN a = false := Bool.eq_false_iff.mpr fun h => by rw [fMul_of_isNaN (.inl h)] at hproduct; cases hproduct
  have hb : fIsNaN b = false := Bool.eq_false_iff.mpr fun h => by rw [fMul_of_isNaN (.inr h)] at hproduct; cases hproduct
  have hsign : (fNeg b != fNeg a) = (fNeg a != fNeg b) := bne_comm
  rw [fMul_of_not_isNaN ha hb] at hproduct ⊢
  rw [fMul_of_not_isNaN hb ha, hsign, Nat.mul_comm (fMant b), add_comm (fExp b), Bool.or_comm (fIsInf b),
    Bool.or_comm (fIsZero b)]
  by_cases hinvalid : (fIsInf a || fIsInf b) = true ∧ (fIsZero a || fIsZero b) = true
  · rw [if_pos hinvalid.1, if_pos hinvalid.2, fIsNaN_fNaN] at hproduct
    cases hproduct
  · split
    case isTrue hinf => rw [if_neg (not_and.mp hinvalid hinf), if_neg (not_and.mp hinvalid hinf)]
    case isFalse => rfl

/-- Settles O18. -/
theorem sumsAndProductsCommute : Obligations.SumsAndProductsCommute := by
  unfold Obligations.SumsAndProductsCommute
  intro a b
  exact ⟨fun h => fSum_comm (fIsNaN_fNaN _ _ _) h _, fMul_comm⟩

end Sys2Proof.Proofs
end

section
/-! SUPPORT. The bounds that one rounding keeps, and the range of the peak (rules R100 to R102). -/

namespace Sys2Proof.Proofs

open Sys2Proof Sys2Proof.Machine

/-- A significand below `2 ^ (24 + d)` rounds at place `d` to at most `2 ^ 24`. -/
theorem fShiftRound_le {m : Nat} {d : Int} (hd : 0 ≤ 24 + d) (h : m < 2 ^ (24 + d).toNat) :
    fShiftRound m d ≤ 2 ^ 24 := by
  unfold fShiftRound
  split
  case isTrue hexact =>
    calc m * 2 ^ (-d).toNat ≤ 2 ^ (24 + d).toNat * 2 ^ (-d).toNat := Nat.mul_le_mul_right _ h.le
      _ = 2 ^ 24 := by rw [← pow_add]; congr 1; omega
  case isFalse hrounds =>
    have hquotient : m / 2 ^ d.toNat < 2 ^ 24 := by
      refine Nat.div_lt_of_lt_mul (h.trans_eq ?_)
      rw [← pow_add]
      congr 1
      omega
    dsimp only
    split <;> omega

/-- A significand from `2 ^ (23 + d)` up rounds at place `d` to at least `2 ^ 23`. -/
theorem le_fShiftRound {m : Nat} {d : Int} (h : 2 ^ (23 + d).toNat ≤ m) (hd : 0 ≤ 23 + d) :
    2 ^ 23 ≤ fShiftRound m d := by
  unfold fShiftRound
  split
  case isTrue hexact =>
    calc 2 ^ 23 = 2 ^ (23 + d).toNat * 2 ^ (-d).toNat := by rw [← pow_add]; congr 1; omega
      _ ≤ m * 2 ^ (-d).toNat := Nat.mul_le_mul_right _ h
  case isFalse hrounds =>
    have hquotient : 2 ^ 23 ≤ m / 2 ^ d.toNat := by
      refine (Nat.le_div_iff_mul_le (Nat.two_pow_pos _)).mpr (le_of_eq_of_le ?_ h)
      rw [← pow_add]
      congr 1
      omega
    dsimp only
    split <;> omega

/-- The low 31 bits of `m * 2 ^ e` rounded, before the overflow is cut off at an infinity. -/
def roundedMagnitude (m : Nat) (e : Int) : Nat := (fPlace m e + 149).toNat * 2 ^ 23 + fShiftRound m (fPlace m e - e)

theorem fRound_eq (neg : Bool) {m : Nat} (h : m ≠ 0) (e : Int) :
    fRound neg m e = fWord neg (min (roundedMagnitude m e) fInfMagnitude) := by
  rw [fRound, if_neg h]
  rfl

/-- A value below a power of two rounds to at most that power. -/
theorem roundedMagnitude_le {m j bound : Nat} {e : Int} (hm : m ≠ 0) (h : m < 2 ^ j)
    (hplace : (j : Int) + e = (bound : Int) - 127) (hbound : 2 ≤ bound) : roundedMagnitude m e ≤ bound * 2 ^ 23 := by
  have hlog : m.log2 < j := (Nat.log2_lt hm).mpr h
  have hexponent : (fPlace m e + 149).toNat ≤ bound - 2 := by unfold fPlace; omega
  have hsignificand : fShiftRound m (fPlace m e - e) ≤ 2 ^ 24 := by
    have hdigits : m.log2 + 1 ≤ (24 + (fPlace m e - e)).toNat := by unfold fPlace; omega
    exact fShiftRound_le (by unfold fPlace; omega)
      (Nat.lt_log2_self.trans_le (Nat.pow_le_pow_right Nat.two_pos hdigits))
  unfold roundedMagnitude
  omega

/-- A value from a power of two up rounds to at least that power. -/
theorem le_roundedMagnitude {m j bound : Nat} {e : Int} (h : 2 ^ j ≤ m)
    (hplace : (j : Int) + e = (bound : Int) - 127) (hbound : 1 ≤ bound) : bound * 2 ^ 23 ≤ roundedMagnitude m e := by
  have hm : m ≠ 0 := (Nat.two_pow_pos j).trans_le h |>.ne'
  have hlog : j ≤ m.log2 := (Nat.le_log2 hm).mpr h
  have hexponent : bound - 1 ≤ (fPlace m e + 149).toNat := by unfold fPlace; omega
  have hsignificand : 2 ^ 23 ≤ fShiftRound m (fPlace m e - e) := by
    have hdigits : (23 + (fPlace m e - e)).toNat = m.log2 := by unfold fPlace; omega
    refine le_fShiftRound ?_ (by unfold fPlace; omega)
    rw [hdigits]
    exact Nat.log2_self_le hm
  unfold roundedMagnitude
  omega

/-- The order of words that are no NaNs (rule R8). -/
theorem fGt_iff (a b : Binary32) : fGt a b = true ↔ fIsNaN a = false ∧ fIsNaN b = false ∧ fKey b < fKey a := by
  simp [fGt, and_assoc]

/-- A rounded word is a number or an infinity, and its key is its rounded magnitude with its sign. -/
theorem fIsNaN_fRound (neg : Bool) (m : Nat) (e : Int) : fIsNaN (fRound neg m e) = false := by
  rw [Bool.eq_false_iff, ne_eq, fIsNaN_iff]
  by_cases hm : m = 0
  · rw [fRound, if_pos hm, fMagnitude_fWord _ (by decide)]
    exact Nat.not_lt_zero _
  · have hinf : min (roundedMagnitude m e) fInfMagnitude ≤ fInfMagnitude := min_le_right _ _
    rw [fRound_eq _ hm, fMagnitude_fWord _ (hinf.trans_lt (by decide))]
    exact hinf.not_gt

theorem fKey_fRound (neg : Bool) {m : Nat} (hm : m ≠ 0) (e : Int) :
    fKey (fRound neg m e) =
      if neg then -((min (roundedMagnitude m e) fInfMagnitude : Nat) : Int)
      else ((min (roundedMagnitude m e) fInfMagnitude : Nat) : Int) := by
  have hinf : min (roundedMagnitude m e) fInfMagnitude < 2 ^ 31 := (min_le_right _ _).trans_lt (by decide)
  rw [fRound_eq _ hm, fKey_eq, fNeg_fWord _ hinf, fMagnitude_fWord _ hinf]

/-- The range of the peak (rule R101) in the order of `fgt`. -/
theorem peakInRange_iff (x : Binary32) :
    peakInRange x ↔ fIsNaN x = false ∧ 0x3EAAAAAB ≤ fKey x ∧ fKey x ≤ 0x3F800000 := by
  rw [peakInRange, BitVec.le_def, BitVec.le_def, Bool.eq_false_iff, ne_eq, fIsNaN_iff, fKey_eq, fNeg_eq, fMagnitude,
    fInfMagnitude]
  simp only [decide_eq_true_eq, BitVec.toNat_ofNat]
  split <;> omega

/-- A word at least as large as a positive one of the same key is that word. -/
theorem eq_of_fKey_eq {x y : Binary32} (hpos : 0 < fKey y) (h : fKey x = fKey y) : x = y := by
  have hx := x.isLt
  have hy := y.isLt
  refine BitVec.eq_of_toNat_eq ?_
  rw [fKey_eq, fKey_eq, fNeg_eq, fNeg_eq, fMagnitude, fMagnitude] at h
  rw [fKey_eq, fNeg_eq, fMagnitude] at hpos
  simp only [decide_eq_true_eq] at h hpos
  split at hpos <;> split at h <;> omega

/-- A word that is not a NaN and not above 1.0. -/
def AtMostOne (x : Binary32) : Prop := fIsNaN x = false ∧ fKey x ≤ 0x3F800000

/-- A value below 1.0 is not rounded above 1.0, and a negative one is below it anyway. -/
theorem atMostOne_fRound {neg : Bool} {m j : Nat} {e : Int} (hm : m ≠ 0) (h : neg = false → m < 2 ^ j)
    (hplace : (j : Int) + e = 0) : AtMostOne (fRound neg m e) := by
  refine ⟨fIsNaN_fRound neg m e, ?_⟩
  rw [fKey_fRound neg hm]
  split
  case isTrue => omega
  case isFalse hpos =>
    have hbelow := roundedMagnitude_le (bound := 127) hm (h (Bool.eq_false_iff.mpr hpos)) hplace (by decide)
    omega

/-- A sum that is below 1.0 before it is rounded. -/
theorem atMostOne_finiteSum {a b : Binary32} {j : Nat} (hplace : (j : Int) + min (fExp a) (fExp b) = 0)
    (hsum : fScaled a (min (fExp a) (fExp b)) + fScaled b (min (fExp a) (fExp b)) < 2 ^ j) :
    AtMostOne (finiteSum a b) := by
  unfold finiteSum
  dsimp only
  split
  case isTrue => cases fNeg a && fNeg b <;> exact ⟨by decide, by decide⟩
  case isFalse hnonzero =>
    refine atMostOne_fRound (Int.natAbs_ne_zero.mpr hnonzero) (fun hpos => ?_) hplace
    rw [decide_eq_false_iff_not] at hpos
    zify
    rwa [abs_of_nonneg (not_lt.mp hpos)]

/-- The fields of a word in the range of the peak. -/
theorem fields_of_peakInRange {x : Binary32} (h : peakInRange x) :
    fIsNaN x = false ∧ fIsInf x = false ∧ fNeg x = false ∧
      (fBiased x = 125 ∧ 0x2AAAAB ≤ fFraction x ∨ fBiased x = 126 ∨ fBiased x = 127 ∧ fFraction x = 0) := by
  refine ⟨((peakInRange_iff x).mp h).1, ?_⟩
  rw [peakInRange, BitVec.le_def, BitVec.le_def] at h
  simp only [BitVec.toNat_ofNat] at h
  rw [Bool.eq_false_iff, ne_eq, fIsInf_iff, fMagnitude, fInfMagnitude, fNeg_eq, decide_eq_false_iff_not, fBiased_eq,
    fFraction_eq]
  omega

theorem fFraction_lt (x : Binary32) : fFraction x < 2 ^ 23 := BitVec.isLt _

/-- A word in the range of the peak is normal. -/
theorem significand_of_peakInRange {x : Binary32} (h : peakInRange x) :
    fMant x = fFraction x + 2 ^ 23 ∧ fExp x = (fBiased x : Int) - 150 := by
  obtain ⟨-, -, -, hbiased⟩ := fields_of_peakInRange h
  have hnormal : fBiased x ≠ 0 := by omega
  exact ⟨if_neg hnormal, if_neg hnormal⟩

/-- A peak in range as an integer multiple of `2 ^ -37`, the last place of `PEAK_DECAY`. -/
theorem fScaled_of_peakInRange {x : Binary32} (h : peakInRange x) : -37 ≤ fExp x ∧ fScaled x (-37) ≤ 2 ^ 37 := by
  obtain ⟨-, -, hneg, hbiased⟩ := fields_of_peakInRange h
  obtain ⟨hmant, hexp⟩ := significand_of_peakInRange h
  have hfraction := fFraction_lt x
  refine ⟨by omega, ?_⟩
  simp only [fScaled, hneg, Bool.false_eq_true, if_false, sub_neg_eq_add, hmant]
  norm_cast
  rcases hbiased with ⟨hb, -⟩ | hb | ⟨hb, hf⟩
  · rw [show (fExp x + 37).toNat = 12 by omega]
    omega
  · rw [show (fExp x + 37).toNat = 13 by omega]
    omega
  · rw [show (fExp x + 37).toNat = 14 by omega, hf]
    omega

/-- The decayed peak of rule R101: `PEAK_DECAY` is positive, so the difference is below 1.0 before it is rounded. -/
theorem atMostOne_decayed {ookMax : Binary32} (h : peakInRange ookMax) : AtMostOne (fSub ookMax 0x38D1B717#32) := by
  obtain ⟨hnan, hinf, -, -⟩ := fields_of_peakInRange h
  obtain ⟨hexp, hscaled⟩ := fScaled_of_peakInRange h
  have hdecay : fFlip 0x38D1B717#32 = 0xB8D1B717#32 := by decide
  have hdecayExp : fExp 0xB8D1B717#32 = -37 := by decide
  have hdecayScaled : fScaled 0xB8D1B717#32 (-37) < 0 := by decide
  have hplace : min (fExp ookMax) (fExp 0xB8D1B717#32) = -37 := by rw [hdecayExp, min_eq_right hexp]
  have hdecayInf : ¬ fIsInf 0xB8D1B717#32 = true := by decide
  rw [fSub, hdecay, fSum_of_not_isNaN hnan (by decide), if_neg (ne_true_of_eq_false hinf), if_neg hdecayInf]
  refine atMostOne_finiteSum (j := 37) (by rw [hplace]; rfl) ?_
  rw [hplace]
  omega

/-- The clamped value is a NaN or not above 1.0 (rule R100). -/
theorem atMostOne_clampTop {v : Binary32} (h : fIsNaN (clampTop hardware v) = false) :
    AtMostOne (clampTop hardware v) := by
  refine ⟨h, ?_⟩
  rw [clampTop_hardware] at h ⊢
  split
  case isTrue => decide
  case isFalse hnot =>
    rw [if_neg hnot] at h
    have hone : fIsNaN 0x3F800000#32 = false := by decide
    have hkey : fKey 0x3F800000#32 = 0x3F800000 := by decide
    rw [fGt_iff] at hnot
    by_contra habove
    exact hnot ⟨h, hone, by omega⟩

/-- Raised to the clamped value, the peak is still not above 1.0; raised to the floor, it is in range (rule R101). -/
theorem peakInRange_nextPeak {ookMax : Binary32} (h : peakInRange ookMax) (v : Binary32) :
    peakInRange (nextPeak hardware (clampTop hardware v) ookMax) := by
  have hdecayed := atMostOne_decayed h
  rw [nextPeak_hardware]
  extract_lets decayed raised
  have hraised : AtMostOne raised := by
    unfold raised
    split
    case isTrue hgt => exact atMostOne_clampTop ((fGt_iff _ _).mp hgt).1
    case isFalse => exact hdecayed
  split
  case isTrue => exact ⟨by decide, by decide⟩
  case isFalse hnot =>
    have hfloor : fIsNaN 0x3EAAAAAB#32 = false := by decide
    have hkey : fKey 0x3EAAAAAB#32 = 0x3EAAAAAB := by decide
    rw [fGt_iff] at hnot
    refine (peakInRange_iff raised).mpr ⟨hraised.1, ?_, hraised.2⟩
    by_contra hbelow
    exact hnot ⟨hfloor, hraised.1, by omega⟩

/-- The threshold of rule R102 is never below 0.25. -/
theorem le_fKey_threshold {peak : Binary32} (h : peakInRange peak) :
    0x3E800000 ≤ fKey (fMul peak 0x3F400000#32) := by
  obtain ⟨hnan, hinf, hneg, hbiased⟩ := fields_of_peakInRange h
  have hratio : fIsNaN 0x3F400000#32 = false ∧ fIsInf 0x3F400000#32 = false ∧ fNeg 0x3F400000#32 = false ∧
      fMant 0x3F400000#32 = 3 * 2 ^ 22 ∧ fExp 0x3F400000#32 = -24 := by decide
  obtain ⟨hrnan, hrinf, hrneg, hrmant, hrexp⟩ := hratio
  have hproduct : fMul peak 0x3F400000#32 = fRound false (fMant peak * (3 * 2 ^ 22)) (fExp peak + -24) := by
    have hfinite : ¬ (fIsInf peak || fIsInf 0x3F400000#32) = true := by rw [hinf, hrinf]; exact Bool.false_ne_true
    rw [fMul_of_not_isNaN hnan hrnan, if_neg hfinite, hneg, hrneg, hrmant, hrexp, bne_self_eq_false]
  have hlarge : ∃ j : Nat, 2 ^ j ≤ fMant peak * (3 * 2 ^ 22) ∧ (j : Int) + (fExp peak + -24) = 125 - 127 := by
    obtain ⟨hmant, hexp⟩ := significand_of_peakInRange h
    rw [hmant, hexp]
    rcases hbiased with ⟨hb, hf⟩ | hb | ⟨hb, hf⟩
    · exact ⟨47, by omega, by omega⟩
    · exact ⟨46, by omega, by omega⟩
    · exact ⟨45, by omega, by omega⟩
  obtain ⟨j, hj, hplace⟩ := hlarge
  have hm : fMant peak * (3 * 2 ^ 22) ≠ 0 := ((Nat.two_pow_pos j).trans_le hj).ne'
  have hbound := le_roundedMagnitude (bound := 125) hj hplace (by decide)
  rw [hproduct, fKey_fRound _ hm, if_neg Bool.false_ne_true, fInfMagnitude]
  omega

/-- What exceeds the threshold exceeds 0.25. -/
theorem chipOf_of_not_above_floor {c peak : Binary32} (hpeak : peakInRange peak) (h : fGt c 0x3E800000#32 = false) :
    chipOf hardware c peak = 0#8 := by
  rw [chipOf_hardware]
  refine if_neg fun habove => ?_
  obtain ⟨hc, -, hkey⟩ := (fGt_iff _ _).mp habove
  have hthreshold := le_fKey_threshold hpeak
  have hnan : fIsNaN 0x3E800000#32 = false := by decide
  have hfloor : fKey 0x3E800000#32 = 0x3E800000 := by decide
  exact Bool.eq_false_iff.mp h ((fGt_iff _ _).mpr ⟨hc, hnan, by omega⟩)

/-- What does not exceed 0.25 does not exceed 1.0, and the clamp leaves it as it is. -/
theorem clampTop_of_not_above_floor {v : Binary32} (h : fGt v 0x3E800000#32 = false) : clampTop hardware v = v := by
  rw [clampTop_hardware]
  refine if_neg fun habove => ?_
  obtain ⟨hv, -, hkey⟩ := (fGt_iff _ _).mp habove
  have hnan : fIsNaN 0x3E800000#32 = false := by decide
  have hfloor : fKey 0x3E800000#32 < fKey 0x3F800000#32 := by decide
  exact Bool.eq_false_iff.mp h ((fGt_iff _ _).mpr ⟨hv, hnan, hfloor.trans hkey⟩)

/-- Settles O23: the peak that the update leaves is in range, whatever is forwarded. -/
theorem nothingBelowTheFloorIsAChip : Obligations.NothingBelowTheFloorIsAChip := by
  unfold Obligations.NothingBelowTheFloorIsAChip
  intro v ookMax hpeak hfloor
  refine chipOf_of_not_above_floor (peakInRange_nextPeak hpeak v) ?_
  rwa [clampTop_of_not_above_floor hfloor]

/-- A forwarded 1.0 is a new peak: the decayed one is not above it, and equal to it only as the same word. -/
theorem nextPeak_one {ookMax : Binary32} (h : peakInRange ookMax) :
    nextPeak hardware 0x3F800000#32 ookMax = 0x3F800000#32 := by
  obtain ⟨hnan, hle⟩ := atMostOne_decayed h
  have hone : fIsNaN 0x3F800000#32 = false := by decide
  have hkey : fKey 0x3F800000#32 = 0x3F800000 := by decide
  have hfloor : ¬ fGt 0x3EAAAAAB#32 0x3F800000#32 = true := by decide
  have hraised : (if fGt 0x3F800000#32 (fSub ookMax 0x38D1B717#32) then 0x3F800000#32
      else fSub ookMax 0x38D1B717#32) = 0x3F800000#32 := by
    split
    case isTrue => rfl
    case isFalse hnot =>
      rw [fGt_iff] at hnot
      have hge : ¬ fKey (fSub ookMax 0x38D1B717#32) < fKey 0x3F800000#32 := fun hlt => hnot ⟨hone, hnan, hlt⟩
      exact eq_of_fKey_eq (by omega) (by omega)
  rw [nextPeak_hardware]
  dsimp only
  rw [hraised, if_neg hfloor]

/-- Settles O24: a NaN and minus infinity are cases of O23; plus infinity is clamped to 1.0. -/
theorem stickyValuesGiveAConstantChip : Obligations.StickyValuesGiveAConstantChip := by
  unfold Obligations.StickyValuesGiveAConstantChip
  intro v ookMax hpeak
  have hclamp : clampTop hardware 0x7F800000#32 = 0x3F800000#32 := by decide
  have hchip : chipOf hardware 0x3F800000#32 0x3F800000#32 = 1#8 := by decide
  refine ⟨fun hnan => ?nan, ?minusInfinity, ?peak, ?plusInfinity⟩
  case nan =>
    have hfloor : fGt v 0x3E800000#32 = false := by rw [fGt, hnan]; rfl
    exact nothingBelowTheFloorIsAChip v ookMax hpeak hfloor
  case minusInfinity => exact nothingBelowTheFloorIsAChip _ ookMax hpeak (by decide)
  case peak => rw [hclamp, nextPeak_one hpeak]
  case plusInfinity => rw [hclamp, nextPeak_one hpeak, hchip]

end Sys2Proof.Proofs
end

section
/-! SUPPORT. Ownership along the call chain (rules R11, R221): a stage writes what it owns and what the stages below it
own, and nothing else. -/

namespace Sys2Proof.Proofs

open Sys2Proof Sys2Proof.Machine

/-- The elements that an operation outside the call chain writes: the filter's own, and the health monitor's. -/
inductive OwnElement where
  | smoothed | health | fault

/-- What an operation writes of `OwnElement` without entering the call chain. -/
def ownsElement (i : Instr) : OwnElement → Prop
  | .smoothed => ∃ m, i = .envFilter m
  | .health => (∃ now nowValid, i = .rxfail now nowValid) ∨ ∃ g clock, i = .rxhMark g clock
  | .fault => ∃ now nowValid, i = .rxfail now nowValid

/-- `t` differs from `s` only in elements of the stages from `n` on (`entryStage`) and in the elements `own`. -/
structure WritesFrom (n : Nat) (own : OwnElement → Prop) (s t : State) : Prop where
  smoothed : ¬ (n ≤ 1 ∨ own .smoothed) → t.smoothed = s.smoothed
  decimCount : ¬ n ≤ 2 → t.decimCount = s.decimCount
  ookMax : ¬ n ≤ 3 → t.ookMax = s.ookMax
  lastChip : ¬ n ≤ 4 → t.lastChip = s.lastChip
  sinceEdge : ¬ n ≤ 4 → t.sinceEdge = s.sinceEdge
  phase : ¬ n ≤ 5 → t.phase = s.phase
  frame : ¬ n ≤ 7 → t.frame = s.frame
  payloadCount : ¬ n ≤ 8 → t.payloadCount = s.payloadCount
  errorCount : ¬ n ≤ 8 → t.errorCount = s.errorCount
  registry : ¬ n ≤ 11 → t.registry = s.registry
  absent : ¬ n ≤ 9 → ∀ x, memRead s.registry x = none → memRead t.registry x = none
  rxGood : ¬ (n ≤ 8 ∨ own .health) → t.rxGood = s.rxGood
  rxLastPublishTime : ¬ (n ≤ 8 ∨ own .health) → t.rxLastPublishTime = s.rxLastPublishTime
  halted : ¬ (n ≤ 8 ∨ own .fault) → t.halted = s.halted
  faultCause : ¬ (n ≤ 8 ∨ own .fault) → t.faultCause = s.faultCause
  input : t.input = s.input

variable {n m : Nat} {own : OwnElement → Prop} {s t u : State}

theorem WritesFrom.trans (hst : WritesFrom n own s t) (htu : WritesFrom n own t u) : WritesFrom n own s u where
  smoothed h := (htu.smoothed h).trans (hst.smoothed h)
  decimCount h := (htu.decimCount h).trans (hst.decimCount h)
  ookMax h := (htu.ookMax h).trans (hst.ookMax h)
  lastChip h := (htu.lastChip h).trans (hst.lastChip h)
  sinceEdge h := (htu.sinceEdge h).trans (hst.sinceEdge h)
  phase h := (htu.phase h).trans (hst.phase h)
  frame h := (htu.frame h).trans (hst.frame h)
  payloadCount h := (htu.payloadCount h).trans (hst.payloadCount h)
  errorCount h := (htu.errorCount h).trans (hst.errorCount h)
  registry h := (htu.registry h).trans (hst.registry h)
  absent h x hx := htu.absent h x (hst.absent h x hx)
  rxGood h := (htu.rxGood h).trans (hst.rxGood h)
  rxLastPublishTime h := (htu.rxLastPublishTime h).trans (hst.rxLastPublishTime h)
  halted h := (htu.halted h).trans (hst.halted h)
  faultCause h := (htu.faultCause h).trans (hst.faultCause h)
  input := htu.input.trans hst.input

/-- A caller writes all that its callee writes. -/
theorem WritesFrom.mono (h : WritesFrom m own s t) (hnm : n ≤ m) : WritesFrom n own s t where
  smoothed hn := h.smoothed (mt (Or.imp_left hnm.trans) hn)
  decimCount hn := h.decimCount (mt hnm.trans hn)
  ookMax hn := h.ookMax (mt hnm.trans hn)
  lastChip hn := h.lastChip (mt hnm.trans hn)
  sinceEdge hn := h.sinceEdge (mt hnm.trans hn)
  phase hn := h.phase (mt hnm.trans hn)
  frame hn := h.frame (mt hnm.trans hn)
  payloadCount hn := h.payloadCount (mt hnm.trans hn)
  errorCount hn := h.errorCount (mt hnm.trans hn)
  registry hn := h.registry (mt hnm.trans hn)
  absent hn := h.absent (mt hnm.trans hn)
  rxGood hn := h.rxGood (mt (Or.imp_left hnm.trans) hn)
  rxLastPublishTime hn := h.rxLastPublishTime (mt (Or.imp_left hnm.trans) hn)
  halted hn := h.halted (mt (Or.imp_left hnm.trans) hn)
  faultCause hn := h.faultCause (mt (Or.imp_left hnm.trans) hn)
  input := h.input

theorem WritesFrom.andThen {c : Call} {rest : State → Call} (hcall : WritesFrom n own s c.state)
    (hrest : ∀ t, WritesFrom n own t (rest t).state) : WritesFrom n own s (c.andThen rest).state := by
  cases c with
  | returned t => exact hcall.trans (hrest t)
  | abandoned t => exact hcall

/-- The fields that show the output and the selection belong to no stage: they are the model's own (log 1, 6). -/
theorem writesFrom_setShown (s : State) (output : List Event) (selected : Option Poly) :
    WritesFrom n own s { s with output := output, selectedPoly := selected } :=
  ⟨fun _ => rfl, fun _ => rfl, fun _ => rfl, fun _ => rfl, fun _ => rfl, fun _ => rfl, fun _ => rfl, fun _ => rfl,
    fun _ => rfl, fun _ => rfl, fun _ _ => id, fun _ => rfl, fun _ => rfl, fun _ => rfl, fun _ => rfl, rfl⟩

theorem writesFrom_startStep (s : State) : WritesFrom n own s s.startStep :=
  writesFrom_setShown s [] none

theorem WritesFrom.refl (s : State) : WritesFrom n own s s :=
  writesFrom_setShown s s.output s.selectedPoly

theorem writesFrom_setSmoothed (hn : n ≤ 1 ∨ own .smoothed) (s : State) (v : Binary32) :
    WritesFrom n own s { s with smoothed := v } :=
  { WritesFrom.refl s with smoothed := fun h => absurd hn h }

theorem writesFrom_setDecimCount (hn : n ≤ 2) (s : State) (count : Nat) :
    WritesFrom n own s { s with decimCount := count } :=
  { WritesFrom.refl s with decimCount := fun h => absurd hn h }

theorem writesFrom_setOokMax (hn : n ≤ 3) (s : State) (peak : Binary32) :
    WritesFrom n own s { s with ookMax := peak } :=
  { WritesFrom.refl s with ookMax := fun h => absurd hn h }

theorem writesFrom_countedState (hn : n ≤ 4) (c : Byte) (s : State) : WritesFrom n own s (countedState c s) :=
  { WritesFrom.refl s with
    lastChip := fun h => absurd hn h
    sinceEdge := fun h => absurd hn h }

theorem writesFrom_setPhase (hn : n ≤ 5) (s : State) (phase : Phase) : WritesFrom n own s { s with phase := phase } :=
  { WritesFrom.refl s with phase := fun h => absurd hn h }

theorem writesFrom_setFrame (hn : n ≤ 7) (s : State) (frame : BitVec 64) :
    WritesFrom n own s { s with frame := frame } :=
  { WritesFrom.refl s with frame := fun h => absurd hn h }

theorem sweepAll_writesFrom (cfg : Config) (now : Time) (s : State) : WritesFrom 11 own s (sweepAll cfg now s) := by
  obtain ⟨m, out, hsweep, -, hread, -⟩ := sweepAll_frame cfg now s
  rw [hsweep]
  refine { WritesFrom.refl s with registry := fun h => absurd le_rfl h, absent := fun _ x hx => ?_ }
  rcases hread x with hsame | hflagged
  · exact hsame.trans hx
  · rw [hx] at hflagged
    exact hflagged

theorem devNotify_writesFrom (cfg : Config) (serial : Serial) (status : Byte) (now : Time) (s : State) :
    WritesFrom 10 own s (devNotify cfg serial status now s) := by
  have hcreates := fun x => devNotify_creates_none cfg serial status now s (x := x)
  obtain ⟨m, out, k, hnotify, -⟩ := devNotify_frame cfg serial status now s
  rw [hnotify] at hcreates ⊢
  exact { WritesFrom.refl s with registry := fun h => absurd (by decide) h, absent := fun _ => hcreates }

theorem devUpdate_writesFrom (cfg : Config) (serial : Serial) (status : Byte) (now : Time) (s : State) :
    WritesFrom 9 own s (devUpdate cfg serial status now s) := by
  obtain ⟨m, out, hupdate, -⟩ := devUpdate_frame cfg serial status now s
  rw [hupdate]
  exact
    { WritesFrom.refl s with
      registry := fun h => absurd (by decide) h
      absent := fun h => absurd le_rfl h }

theorem crcCheck_writesFrom (cfg : Config) (p : Payload) (clock : Clock) (s : State) :
    WritesFrom 8 own s (crcCheck cfg p clock s).state := by
  obtain ⟨pc, ec, m, rg, rl, ha, fc, out, sp, hcheck, -⟩ := crcCheck_frame cfg p clock s
  rw [hcheck]
  exact
    { WritesFrom.refl s with
      payloadCount := fun h => absurd le_rfl h
      errorCount := fun h => absurd le_rfl h
      registry := fun h => absurd (by decide) h
      absent := fun h => absurd (by decide) h
      rxGood := fun h => absurd (.inl le_rfl) h
      rxLastPublishTime := fun h => absurd (.inl le_rfl) h
      halted := fun h => absurd (.inl le_rfl) h
      faultCause := fun h => absurd (.inl le_rfl) h }

theorem frmDetect_writesFrom (cfg : Config) (clock : Clock) (s : State) :
    WritesFrom 7 own s (frmDetect cfg clock s).state := by
  unfold frmDetect
  split
  · exact ((crcCheck_writesFrom cfg s.frame clock s).mono (by decide)).andThen fun t => writesFrom_setFrame le_rfl t _
  · exact .refl s

theorem frmShift_writesFrom (cfg : Config) (d : Byte) (clock : Clock) (s : State) :
    WritesFrom 6 own s (frmShift cfg d clock s).state := by
  unfold frmShift
  split
  · exact .refl s
  · exact (writesFrom_setFrame (by decide) s _).trans ((frmDetect_writesFrom cfg clock _).mono (by decide))

theorem emitPending_writesFrom (cfg : Config) (clock : Clock) (s : State) :
    WritesFrom 6 own s (emitPending cfg clock s).state := by
  unfold emitPending
  split
  · exact .refl s
  · exact frmShift_writesFrom cfg _ clock s

theorem manDecide_writesFrom (cfg : Config) (b : Bool) (clock : Clock) (s : State) :
    WritesFrom 5 own s (manDecide cfg b clock s).state :=
  ((emitPending_writesFrom cfg clock s).mono (by decide)).andThen fun t => writesFrom_setPhase le_rfl t _

theorem manStep_writesFrom (cfg : Config) (b : Byte) (clock : Clock) (s : State) :
    WritesFrom 5 own s (manStep cfg b clock s).state := by
  unfold manStep
  split
  · exact .refl s
  · exact manDecide_writesFrom cfg _ clock s

theorem manRow_writesFrom (cfg : Config) (row : Phase) (b : Bool) (clock : Clock) (s : State) :
    WritesFrom 5 own s (manRow cfg row b clock s).state := by
  unfold manRow
  split
  · exact manDecide_writesFrom cfg b clock s
  · exact .refl s

theorem syncChip_writesFrom (cfg : Config) (c : Byte) (clock : Clock) (s : State) :
    WritesFrom 4 own s (syncChip cfg c clock s).state := by
  cases hguard : malformed c with
  | true => rw [syncChip_of_malformed hguard]; exact .refl s
  | false =>
    have hcounted : WritesFrom 4 own s (countedState c s) := writesFrom_countedState le_rfl c s
    rw [syncChip_of_accepted hguard]
    split
    · exact hcounted.trans ((manStep_writesFrom cfg c clock _).mono (by decide))
    · exact hcounted

theorem peakForward_writesFrom (cfg : Config) (v : Binary32) (clock : Clock) (s : State) :
    WritesFrom 3 own s (peakForward cfg v clock s).state :=
  (writesFrom_setOokMax le_rfl s _).trans ((syncChip_writesFrom cfg _ clock _).mono (by decide))

theorem envDecim_writesFrom (cfg : Config) (clock : Clock) (s : State) :
    WritesFrom 2 own s (envDecim cfg clock s).state := by
  unfold envDecim
  dsimp only
  split
  · exact (writesFrom_setDecimCount le_rfl s 0).trans ((peakForward_writesFrom cfg _ clock _).mono (by decide))
  · exact writesFrom_setDecimCount le_rfl s _

theorem takeSample_writesFrom (cfg : Config) (m : Binary32) (clock : Clock) (s : State) :
    WritesFrom 1 own s (takeSample cfg m clock s).state :=
  (writesFrom_setSmoothed (.inl le_rfl) s _).trans ((envDecim_writesFrom cfg clock _).mono (by decide))

theorem resetBlock_writesFrom (cfg : Config) (s : State) : WritesFrom 0 own s (resetBlock cfg s) where
  smoothed h := absurd (.inl (by decide)) h
  decimCount h := absurd (by decide) h
  ookMax h := absurd (by decide) h
  lastChip h := absurd (by decide) h
  sinceEdge h := absurd (by decide) h
  phase h := absurd (by decide) h
  frame h := absurd (by decide) h
  payloadCount h := absurd (by decide) h
  errorCount h := absurd (by decide) h
  registry h := absurd (by decide) h
  absent h := absurd (by decide) h
  rxGood h := absurd (.inl (by decide)) h
  rxLastPublishTime h := absurd (.inl (by decide)) h
  halted h := absurd (.inl (by decide)) h
  faultCause h := absurd (.inl (by decide)) h
  input := rfl

theorem rxhMark_writesFrom (hown : own .health) (cfg : Config) (g : Bool) (now : Time) (s : State) :
    WritesFrom 12 own s (rxhMark cfg g now s) := by
  rw [rxhMark_spec]
  exact
    { WritesFrom.refl s with
      rxGood := fun h => absurd (.inr hown) h
      rxLastPublishTime := fun h => absurd (.inr hown) h }

theorem rxFail_writesFrom (hhealth : own .health) (hfault : own .fault) (cfg : Config) (clock : Clock) (s : State) :
    WritesFrom 12 own s (rxFail cfg clock s).state := by
  unfold rxFail
  split
  · exact rxhMark_writesFrom hhealth cfg false clock.now s
  · exact
      { WritesFrom.refl s with
        halted := fun h => absurd (.inr hfault) h
        faultCause := fun h => absurd (.inr hfault) h }

theorem runCall_writesFrom {op : State → Call} (h : ∀ s, WritesFrom n own s (op s).state) (s : State) :
    WritesFrom n own s (runCall s op) := by
  unfold runCall
  split
  · exact writesFrom_startStep s
  · exact (writesFrom_startStep s).trans (h _)

theorem runPlain_writesFrom {op : State → State} (h : ∀ s, WritesFrom n own s (op s)) (s : State) :
    WritesFrom n own s (runPlain s op) := by
  unfold runPlain
  split
  · exact writesFrom_startStep s
  · exact (writesFrom_startStep s).trans (h _)

/-- The row of every operation in the call chain: it writes from its entry on, and what it owns outside the chain. -/
theorem exec_writesFrom {i : Instr} (h : exec i s = .next t) : WritesFrom (entryStage i) (ownsElement i) s t := by
  cases i <;> obtain rfl := Host.Outcome.next.inj h
  case idle => exact writesFrom_startStep s
  case reset => exact (writesFrom_startStep s).trans (resetBlock_writesFrom hardware _)
  case sample m now nowValid => exact runCall_writesFrom (takeSample_writesFrom hardware m _) s
  case envFilter m =>
    exact runPlain_writesFrom (fun s => writesFrom_setSmoothed (.inr ⟨m, rfl⟩) s _) s
  case envDecim => exact runCall_writesFrom (envDecim_writesFrom hardware _) s
  case peakForward v now nowValid => exact runCall_writesFrom (peakForward_writesFrom hardware v _) s
  case syncChip c now nowValid => exact runCall_writesFrom (syncChip_writesFrom hardware c _) s
  case manStep b now nowValid => exact runCall_writesFrom (manStep_writesFrom hardware b _) s
  case manLowA0 | manLowA1 | manLowB0 | manLowB1 | manHighA0 | manHighA1 | manHighB0 | manHighB1 =>
    exact runCall_writesFrom (manRow_writesFrom hardware _ _ _) s
  case frmShift d now nowValid => exact runCall_writesFrom (frmShift_writesFrom hardware d _) s
  case frmDetect => exact runCall_writesFrom (frmDetect_writesFrom hardware _) s
  case crcCheck p now nowValid => exact runCall_writesFrom (crcCheck_writesFrom hardware p _) s
  case crcPoly2gig brand =>
    refine runPlain_writesFrom (fun s => ?_) s
    unfold crcPoly2gig
    split
    · exact writesFrom_setShown s _ _
    · exact .refl s
  case crcPolyDefault brand =>
    refine runPlain_writesFrom (fun s => ?_) s
    unfold crcPolyDefault
    split
    · exact .refl s
    · exact writesFrom_setShown s _ _
  case rxhMark g clock => exact runPlain_writesFrom (rxhMark_writesFrom (.inr ⟨g, clock, rfl⟩) hardware g _) s
  case rxfail now nowValid =>
    exact runCall_writesFrom (rxFail_writesFrom (.inl ⟨now, nowValid, rfl⟩) ⟨now, nowValid, rfl⟩ hardware _) s
  case devUpdate serial status clock => exact runPlain_writesFrom (devUpdate_writesFrom hardware serial status _) s
  case devNotify serial status clock => exact runPlain_writesFrom (devNotify_writesFrom hardware serial status _) s
  case sweep clock => exact runPlain_writesFrom (sweepAll_writesFrom hardware _) s

/-- Settles O14, element by element, from the row of the operation. -/
theorem onlyTheOwnersWrite : Obligations.OnlyTheOwnersWrite := by
  unfold Obligations.OnlyTheOwnersWrite
  intro i s t h
  have writes := exec_writesFrom h
  refine ⟨not_imp_comm.mp writes.smoothed, not_imp_comm.mp writes.decimCount, not_imp_comm.mp writes.ookMax, ?edge,
    not_imp_comm.mp writes.phase, not_imp_comm.mp writes.frame, ?counters, not_imp_comm.mp writes.registry, ?created,
    ?health, ?fault, writes.input⟩
  case edge => exact Or.rec (not_imp_comm.mp writes.lastChip) (not_imp_comm.mp writes.sinceEdge)
  case counters => exact Or.rec (not_imp_comm.mp writes.payloadCount) (not_imp_comm.mp writes.errorCount)
  case created =>
    rintro ⟨serial, habsent, hpresent⟩
    by_contra hbelow
    exact hpresent (writes.absent hbelow serial habsent)
  case health => exact Or.rec (not_imp_comm.mp writes.rxGood) (not_imp_comm.mp writes.rxLastPublishTime)
  case fault => exact Or.rec (not_imp_comm.mp writes.halted) (not_imp_comm.mp writes.faultCause)

end Sys2Proof.Proofs
end

section
/-! SUPPORT. The range of the peak over every step (rule R101). -/

namespace Sys2Proof.Proofs

open Sys2Proof Sys2Proof.Machine

theorem peakInRange_peakForward {s : State} (h : peakInRange s.ookMax) (v : Binary32) (clock : Clock) :
    peakInRange (peakForward hardware v clock s).state.ookMax := by
  rw [(peakForward_keepsFrontEnd hardware v clock s).ookMax]
  exact peakInRange_nextPeak h v

theorem peakInRange_envDecim {s : State} (h : peakInRange s.ookMax) (clock : Clock) :
    peakInRange (envDecim hardware clock s).state.ookMax := by
  by_cases hcount : s.decimCount + 1 = hardware.decimRatio
  · rw [envDecim_of_count_eq hcount]
    exact peakInRange_peakForward (s := { s with decimCount := 0 }) h s.smoothed clock
  · rw [envDecim_of_count_ne hcount]
    exact h

theorem peakInRange_takeSample {s : State} (h : peakInRange s.ookMax) (m : Binary32) (clock : Clock) :
    peakInRange (takeSample hardware m clock s).state.ookMax :=
  peakInRange_envDecim (s := envFilter hardware m s) h clock

theorem peakInRange_runCall {s : State} {op : State → Call} (h : peakInRange s.ookMax)
    (hop : peakInRange s.startStep.ookMax → peakInRange (op s.startStep).state.ookMax) :
    peakInRange (runCall s op).ookMax := by
  unfold runCall
  split
  · exact h
  · exact hop h

/-- Settles O22: only `RESET` and the operations from `PEAK.FORWARD` up write the peak, and they write the floor or the
updated peak, which nothing behind the update touches. -/
theorem peakStaysInRange : Obligations.PeakStaysInRange := by
  unfold Obligations.PeakStaysInRange
  intro i s t hpeak h
  by_cases hstage : entryStage i ≤ 3
  case neg => rwa [(exec_writesFrom h).ookMax hstage]
  case pos =>
    cases i with
    | reset =>
      obtain rfl := Host.Outcome.next.inj h
      exact (invariantHoldsAtReset.2 : peakInRange State.reset.ookMax)
    | sample m now nowValid =>
      obtain rfl := Host.Outcome.next.inj h
      exact peakInRange_runCall hpeak fun h => peakInRange_takeSample h m ⟨now, nowValid⟩
    | envDecim now nowValid =>
      obtain rfl := Host.Outcome.next.inj h
      exact peakInRange_runCall hpeak fun h => peakInRange_envDecim h ⟨now, nowValid⟩
    | peakForward v now nowValid =>
      obtain rfl := Host.Outcome.next.inj h
      exact peakInRange_runCall hpeak fun h => peakInRange_peakForward h v ⟨now, nowValid⟩
    | _ => simp [entryStage] at hstage

end Sys2Proof.Proofs
end

section
/-! SUPPORT. What a step can do, said once: the stages of the call chain read the clock only in `CRC.CHECK`, which they
reach with a full frame register or not at all (rules R221, R243); and the forms of every step. -/

namespace Sys2Proof.Proofs

open Sys2Proof Sys2Proof.Machine

/-- `t` differs from `s` only in what the stages in front of the validator write. -/
structure KeepsBackEnd (s t : State) : Prop where
  payloadCount : t.payloadCount = s.payloadCount
  errorCount : t.errorCount = s.errorCount
  registry : t.registry = s.registry
  rxGood : t.rxGood = s.rxGood
  rxLastPublishTime : t.rxLastPublishTime = s.rxLastPublishTime
  halted : t.halted = s.halted
  faultCause : t.faultCause = s.faultCause
  output : t.output = s.output

theorem KeepsBackEnd.refl (s : State) : KeepsBackEnd s s := ⟨rfl, rfl, rfl, rfl, rfl, rfl, rfl, rfl⟩

theorem KeepsBackEnd.trans {s t u : State} (hst : KeepsBackEnd s t) (htu : KeepsBackEnd t u) : KeepsBackEnd s u where
  payloadCount := htu.payloadCount.trans hst.payloadCount
  errorCount := htu.errorCount.trans hst.errorCount
  registry := htu.registry.trans hst.registry
  rxGood := htu.rxGood.trans hst.rxGood
  rxLastPublishTime := htu.rxLastPublishTime.trans hst.rxLastPublishTime
  halted := htu.halted.trans hst.halted
  faultCause := htu.faultCause.trans hst.faultCause
  output := htu.output.trans hst.output

/-- The registers in front of the validator. -/
theorem keepsBackEnd_setFrontEnd (s : State) {smoothed ookMax : Binary32} {decimCount sinceEdge : Nat}
    {lastChip : BitVec 1} {phase : Phase} {frame : BitVec 64} :
    KeepsBackEnd s
      { s with
        smoothed := smoothed, decimCount := decimCount, ookMax := ookMax, lastChip := lastChip, sinceEdge := sinceEdge
        phase := phase, frame := frame } :=
  ⟨rfl, rfl, rfl, rfl, rfl, rfl, rfl, rfl⟩

/-- What a call in the chain does from `s`, whatever the clock. -/
inductive ChainForm (cfg : Config) (handed : BitVec 64 → Prop) (s : State) (op : Clock → Call) : Prop
  /-- No payload is complete: the clock is not read. -/
  | quiet (t : State) (back : KeepsBackEnd s t) (window : t.frame = s.frame ∨ syncOf t.frame ≠ cfg.syncPattern)
      (runs : ∀ clock, op clock = .returned t)
  /-- The frame register holds a payload: the call is `CRC.CHECK` of it and, if that returns, the late writes. -/
  | dispatch (held : State) (finish : State → State) (back : KeepsBackEnd s held) (phase : held.phase = s.phase)
      (complete : handed held.frame) (sync : syncOf held.frame = cfg.syncPattern)
      (finished : ∀ u, KeepsBackEnd u (finish u)) (cleared : ∀ u, (finish u).frame = 0#64)
      (runs : ∀ clock, op clock = (crcCheck cfg held.frame clock held).andThen fun u => .returned (finish u))

variable {cfg : Config} {handed : BitVec 64 → Prop} {s : State} {op : Clock → Call}

/-- A caller that has written registers of its own in front of the call. -/
theorem ChainForm.of_written {held : State} (h : ChainForm cfg handed held op) (back : KeepsBackEnd s held)
    (hphase : held.phase = s.phase) (hframe : held.frame = s.frame) : ChainForm cfg handed s op := by
  cases h with
  | quiet t hback window runs => exact .quiet t (back.trans hback) (hframe ▸ window) runs
  | dispatch inner finish hback hinner complete sync finished cleared runs =>
    exact .dispatch inner finish (back.trans hback) (hinner.trans hphase) complete sync finished cleared runs

/-- A caller that moves the machine after the call returns. -/
theorem ChainForm.andThen_setPhase (h : ChainForm cfg handed s op) (next : Phase) :
    ChainForm cfg handed s fun clock => (op clock).andThen fun t => .returned { t with phase := next } := by
  cases h with
  | quiet t back window runs =>
    refine .quiet { t with phase := next } (back.trans (keepsBackEnd_setFrontEnd t)) window fun clock => ?_
    rw [runs, returned_andThen]
  | dispatch held finish back hphase complete sync finished cleared runs =>
    refine .dispatch held (fun u => { finish u with phase := next }) back hphase complete sync
      (fun u => (finished u).trans (keepsBackEnd_setFrontEnd _)) cleared fun clock => ?_
    rw [runs]
    cases crcCheck cfg held.frame clock held <;> rfl

theorem frmDetect_chainForm (cfg : Config) (s : State) :
    ChainForm cfg (· = s.frame) s fun clock => frmDetect cfg clock s := by
  by_cases hsync : syncOf s.frame = cfg.syncPattern
  · exact .dispatch s (fun u => { u with frame := 0#64 }) (.refl s) rfl rfl hsync
      (fun u => keepsBackEnd_setFrontEnd u) (fun _ => rfl) fun clock => if_pos hsync
  · exact .quiet s (.refl s) (.inl rfl) fun clock => if_neg hsync

theorem frmShift_chainForm (cfg : Config) (d : Byte) (s : State) :
    ChainForm cfg (· = shiftIn s.frame d) s fun clock => frmShift cfg d clock s := by
  cases hguard : malformed d with
  | true => exact .quiet s (.refl s) (.inl rfl) fun clock => frmShift_of_malformed hguard cfg clock s
  | false =>
    have hshift := fun clock => frmShift_of_accepted hguard cfg clock s
    by_cases hsync : syncOf (shiftIn s.frame d) = cfg.syncPattern
    · exact .dispatch { s with frame := shiftIn s.frame d } (fun u => { u with frame := 0#64 })
        (keepsBackEnd_setFrontEnd s) rfl rfl hsync
        (fun u => keepsBackEnd_setFrontEnd u) (fun _ => rfl) fun clock => (hshift clock).trans (if_pos hsync)
    · exact .quiet { s with frame := shiftIn s.frame d } (keepsBackEnd_setFrontEnd s) (.inr hsync) fun clock =>
        (hshift clock).trans (if_neg hsync)

/-- The payload that a machine evaluated in `s` can complete: the register with the pending bit shifted in. -/
def PendingShift (s : State) (w : BitVec 64) : Prop := ∃ d, pendingBit s.phase = some d ∧ w = shiftIn s.frame d

theorem ChainForm.mono {weaker : BitVec 64 → Prop} (h : ChainForm cfg handed s op) (hmono : ∀ w, handed w → weaker w) :
    ChainForm cfg weaker s op := by
  cases h with
  | quiet t back window runs => exact .quiet t back window runs
  | dispatch held finish back hphase complete sync finished cleared runs =>
    exact .dispatch held finish back hphase (hmono _ complete) sync finished cleared runs

theorem manDecide_of_no_pending {s : State} (h : pendingBit s.phase = none) (cfg : Config) (b : Bool) (clock : Clock) :
    manDecide cfg b clock s = .returned { s with phase := nextPhase s.phase b } := by
  rw [manDecide, emitPending, h]
  rfl

theorem manDecide_chainForm (cfg : Config) (b : Bool) (s : State) :
    ChainForm cfg (PendingShift s) s fun clock => manDecide cfg b clock s := by
  cases hpending : pendingBit s.phase with
  | none =>
    exact .quiet { s with phase := nextPhase s.phase b } (keepsBackEnd_setFrontEnd s) (.inl rfl)
      (manDecide_of_no_pending hpending cfg b)
  | some d =>
    have hshift := ((frmShift_chainForm cfg d s).mono (weaker := PendingShift s)
      fun w hw => ⟨d, hpending, hw⟩).andThen_setPhase (nextPhase s.phase b)
    have hdecide := fun clock => manDecide_of_pending hpending cfg b clock
    simpa only [hdecide] using hshift

theorem manStep_chainForm (cfg : Config) (b : Byte) (s : State) :
    ChainForm cfg (PendingShift s) s fun clock => manStep cfg b clock s := by
  cases hguard : malformed b with
  | true => exact .quiet s (.refl s) (.inl rfl) fun clock => manStep_of_malformed hguard cfg clock s
  | false => simpa only [manStep_of_accepted hguard] using manDecide_chainForm cfg (b == 1#8) s

theorem manRow_chainForm (cfg : Config) (row : Phase) (b : Bool) (s : State) :
    ChainForm cfg (PendingShift s) s fun clock => manRow cfg row b clock s := by
  by_cases hphase : s.phase = row
  · simpa only [manRow_of_phase hphase] using manDecide_chainForm cfg b s
  · exact .quiet s (.refl s) (.inl rfl) fun clock => manRow_of_other_phase hphase cfg b clock

theorem syncChip_chainForm (cfg : Config) (c : Byte) (s : State) :
    ChainForm cfg (PendingShift s) s fun clock => syncChip cfg c clock s := by
  cases hguard : malformed c with
  | true => exact .quiet s (.refl s) (.inl rfl) fun clock => syncChip_of_malformed hguard cfg clock s
  | false =>
    have hcounted : KeepsBackEnd s (countedState c s) := keepsBackEnd_setFrontEnd s
    by_cases hsample : isMidBit cfg (countedState c s).sinceEdge = true
    · have hstep : ChainForm cfg (PendingShift s) s fun clock => manStep cfg c clock (countedState c s) :=
        (manStep_chainForm cfg c (countedState c s)).of_written hcounted rfl rfl
      simpa only [syncChip_of_accepted hguard, if_pos hsample] using hstep
    · exact .quiet _ hcounted (.inl rfl) fun clock => (syncChip_of_accepted hguard cfg clock s).trans (if_neg hsample)

theorem peakForward_chainForm (cfg : Config) (v : Binary32) (s : State) :
    ChainForm cfg (PendingShift s) s fun clock => peakForward cfg v clock s :=
  (syncChip_chainForm cfg _ { s with ookMax := nextPeak cfg (clampTop cfg v) s.ookMax }).of_written
    (keepsBackEnd_setFrontEnd s) rfl rfl

theorem envDecim_chainForm (cfg : Config) (s : State) :
    ChainForm cfg (PendingShift s) s fun clock => envDecim cfg clock s := by
  by_cases hcount : s.decimCount + 1 = cfg.decimRatio
  · have hforward : ChainForm cfg (PendingShift s) s fun clock =>
        peakForward cfg s.smoothed clock { s with decimCount := 0 } := (peakForward_chainForm cfg s.smoothed { s with decimCount := 0 }).of_written
      (keepsBackEnd_setFrontEnd s) rfl rfl
    simpa only [envDecim_of_count_eq hcount] using hforward
  · exact .quiet { s with decimCount := s.decimCount + 1 } (keepsBackEnd_setFrontEnd s) (.inl rfl) fun clock =>
      envDecim_of_count_ne hcount clock

theorem takeSample_chainForm (cfg : Config) (m : Binary32) (s : State) :
    ChainForm cfg (PendingShift s) s fun clock => takeSample cfg m clock s :=
  (envDecim_chainForm cfg (envFilter cfg m s)).of_written (keepsBackEnd_setFrontEnd s) rfl rfl

end Sys2Proof.Proofs
end

section
/-! SUPPORT. The forms of a step: every invariant of the block is a case analysis over them. -/

namespace Sys2Proof.Proofs

open Sys2Proof Sys2Proof.Machine

/-- The frame register of a running block is that of before, or it holds no sync match. -/
def WindowKept (s t : State) : Prop := t.frame = s.frame ∨ syncOf t.frame ≠ 0xFFFE#16

/-- What the operation `i` leaves of `s`. In the three forms of a handed-over payload `held` is the state in which `CRC.CHECK`
is called. -/
inductive StepForm (i : Instr) (s t : State) : Prop
  | reset (carriedOut : i = .reset) (result : t = resetBlock hardware s.startStep)
  /-- The validator, the health monitor and the registry are not reached. -/
  | quiet (back : KeepsBackEnd s.startStep t) (window : WindowKept s t)
  | rejected (running : s.halted = false) (held : State) (p : Payload) (before : KeepsBackEnd s.startStep held)
      (back : KeepsBackEnd
        { checkedState hardware p held with
          errorCount := held.errorCount + 1
          output := [.crcFail p (held.errorCount + 1) (held.payloadCount + 1)] } t)
      (window : WindowKept s t)
  | accepted (running : s.halted = false) (held : State) (p : Payload) (now : Time)
      (before : KeepsBackEnd s.startStep held)
      (back : KeepsBackEnd
        (devUpdate hardware (serialOf p) (statusOf p) now (rxhMark hardware true now (checkedState hardware p held))) t)
      (window : WindowKept s t)
  | abandoned (running : s.halted = false) (held : State) (p : Payload) (before : KeepsBackEnd s.startStep held)
      (back : KeepsBackEnd { checkedState hardware p held with halted := true, faultCause := clockAtPayload } t)
      (phase : t.phase = s.phase)
  | marked (running : s.halted = false) (g : Bool) (now : Time) (result : t = rxhMark hardware g now s.startStep)
  | clockLost (running : s.halted = false)
      (result : t = { s.startStep with halted := true, faultCause := clockAtRxfail })
  | updated (running : s.halted = false) (serial : Serial) (status : Byte) (now : Time)
      (result : t = devUpdate hardware serial status now s.startStep)
  | notified (running : s.halted = false) (serial : Serial) (status : Byte) (now : Time)
      (result : t = devNotify hardware serial status now s.startStep)
  | swept (running : s.halted = false) (now : Time) (result : t = sweepAll hardware now s.startStep)

/-- A hand-over to the validator, by the verdict (rule R155). -/
theorem stepForm_of_handOver {i : Instr} {s held : State} (running : s.halted = false) (before : KeepsBackEnd s.startStep held)
    (hphase : held.phase = s.phase) (p : Payload) (clock : Clock) {finish : State → State}
    (finished : ∀ u, KeepsBackEnd u (finish u))
    (hwindow : ∀ u, u.frame = held.frame → WindowKept s (finish u)) :
    StepForm i s ((crcCheck hardware p clock held).andThen fun u => .returned (finish u)).state := by
  have hempty : held.output = [] := before.output
  cases hvalid : crcValid hardware p with
  | false =>
    rw [crcCheck_of_invalid hvalid, returned_andThen, returned_state, hempty, countUp_hardware, countUp_hardware]
    exact .rejected running held p before (finished _) (hwindow _ rfl)
  | true =>
    cases hclock : clock.valid with
    | false =>
      rw [crcCheck_of_no_clock hvalid hclock]
      exact .abandoned running held p before (.refl _) hphase
    | true =>
      rw [crcCheck_of_clock hvalid hclock, returned_andThen, returned_state]
      refine .accepted running held p clock.now before (finished _) (hwindow _ ?_)
      obtain ⟨m, out, hupdate, -⟩ := devUpdate_frame hardware (serialOf p) (statusOf p) clock.now
        (rxhMark hardware true clock.now (checkedState hardware p held))
      rw [hupdate, rxhMark_spec]
      rfl

/-- A step that enters the call chain above the validator. -/
theorem stepForm_of_chain {i : Instr} {s : State} (running : s.halted = false) {handed : BitVec 64 → Prop}
    {op : Clock → State → Call} (h : ChainForm hardware handed s.startStep fun clock => op clock s.startStep)
    (clock : Clock) : StepForm i s (runCall s (op clock)) := by
  rw [runCall_running running]
  cases h with
  | quiet t back window runs =>
    rw [runs clock, returned_state]
    exact .quiet back window
  | dispatch held finish back hphase complete sync finished cleared runs =>
    rw [runs clock]
    refine stepForm_of_handOver running back hphase held.frame clock finished fun u _ => .inr ?_
    rw [cleared]
    decide

theorem stepForm_of_crcCheck {i : Instr} {s : State} (running : s.halted = false) (p : Payload) (clock : Clock) :
    StepForm i s (runCall s (crcCheck hardware p clock)) := by
  have hform := stepForm_of_handOver (i := i) running (.refl _) rfl p clock (finish := id) (fun u => .refl u)
    fun u hframe => .inl hframe
  have hrest : ((crcCheck hardware p clock s.startStep).andThen fun u => .returned (id u)).state =
      (crcCheck hardware p clock s.startStep).state := by
    cases crcCheck hardware p clock s.startStep <;> rfl
  rwa [hrest, ← runCall_running running] at hform

theorem stepForm_of_rxFail {i : Instr} {s : State} (running : s.halted = false) (clock : Clock) :
    StepForm i s (runCall s (rxFail hardware clock)) := by
  rw [runCall_running running]
  cases hclock : clock.valid with
  | true => exact .marked running false clock.now (congrArg Call.state (rxFail_of_clock hclock hardware _))
  | false => exact .clockLost running (congrArg Call.state (rxFail_of_no_clock hclock hardware _))

/-- The selection of a polynomial is the model's own field (log 6). -/
theorem crcPoly2gig_stepForm {i : Instr} {s : State} (running : s.halted = false) (brand : BitVec 4) :
    StepForm i s (runPlain s (crcPoly2gig hardware brand)) := by
  rw [runPlain_running running, crcPoly2gig]
  split <;> exact .quiet ⟨rfl, rfl, rfl, rfl, rfl, rfl, rfl, rfl⟩ (.inl rfl)

theorem crcPolyDefault_stepForm {i : Instr} {s : State} (running : s.halted = false) (brand : BitVec 4) :
    StepForm i s (runPlain s (crcPolyDefault hardware brand)) := by
  rw [runPlain_running running, crcPolyDefault]
  split <;> exact .quiet ⟨rfl, rfl, rfl, rfl, rfl, rfl, rfl, rfl⟩ (.inl rfl)

/-- Every step has one of the forms. -/
theorem exec_stepForm {i : Instr} {s t : State} (h : exec i s = .next t) : StepForm i s t := by
  cases hrun : s.halted with
  | true =>
    by_cases hreset : i = .reset
    · subst hreset
      exact .reset rfl (Host.Outcome.next.inj h).symm
    · rw [exec_halted hreset hrun] at h
      obtain rfl := Host.Outcome.next.inj h
      exact .quiet (.refl _) (.inl rfl)
  | false =>
    cases i <;> obtain rfl := Host.Outcome.next.inj h
    case idle => exact .quiet (.refl _) (.inl rfl)
    case reset => exact .reset rfl rfl
    case sample m now nowValid =>
      exact stepForm_of_chain hrun (takeSample_chainForm hardware m s.startStep) ⟨now, nowValid⟩
    case envDecim now nowValid => exact stepForm_of_chain hrun (envDecim_chainForm hardware s.startStep) ⟨now, nowValid⟩
    case peakForward v now nowValid =>
      exact stepForm_of_chain hrun (peakForward_chainForm hardware v s.startStep) ⟨now, nowValid⟩
    case syncChip c now nowValid =>
      exact stepForm_of_chain hrun (syncChip_chainForm hardware c s.startStep) ⟨now, nowValid⟩
    case manStep b now nowValid =>
      exact stepForm_of_chain hrun (manStep_chainForm hardware b s.startStep) ⟨now, nowValid⟩
    case manLowA0 | manLowA1 | manLowB0 | manLowB1 | manHighA0 | manHighA1 | manHighB0 | manHighB1 =>
      exact stepForm_of_chain hrun (manRow_chainForm hardware _ _ s.startStep) _
    case frmShift d now nowValid =>
      exact stepForm_of_chain hrun (frmShift_chainForm hardware d s.startStep) ⟨now, nowValid⟩
    case frmDetect now nowValid =>
      exact stepForm_of_chain hrun (frmDetect_chainForm hardware s.startStep) ⟨now, nowValid⟩
    case crcCheck p now nowValid => exact stepForm_of_crcCheck hrun p ⟨now, nowValid⟩
    case envFilter m =>
      rw [runPlain_running hrun]
      exact .quiet (keepsBackEnd_setFrontEnd _) (.inl rfl)
    case crcPoly2gig brand => exact crcPoly2gig_stepForm hrun brand
    case crcPolyDefault brand => exact crcPolyDefault_stepForm hrun brand
    case rxfail now nowValid => exact stepForm_of_rxFail hrun ⟨now, nowValid⟩
    case rxhMark g clock => exact .marked hrun g clock.now (runPlain_running hrun _)
    case devUpdate serial status clock => exact .updated hrun serial status clock.now (runPlain_running hrun _)
    case devNotify serial status clock => exact .notified hrun serial status clock.now (runPlain_running hrun _)
    case sweep clock => exact .swept hrun clock.now (runPlain_running hrun _)

end Sys2Proof.Proofs
end

section
/-! SUPPORT. What every step keeps: the invariant, the counters, the registry's entries and the legality of the events,
each by the forms of a step. -/

namespace Sys2Proof.Proofs

open Sys2Proof Sys2Proof.Machine

/-- An accepted payload counts once and touches neither the error counter nor the fault state. -/
theorem fields_of_accepted (p : Payload) (serial : Serial) (status : Byte) (now : Time) (held : State) :
    let t := devUpdate hardware serial status now (rxhMark hardware true now (checkedState hardware p held))
    t.payloadCount = held.payloadCount + 1 ∧ t.errorCount = held.errorCount ∧ t.halted = held.halted ∧
      t.faultCause = held.faultCause ∧ (held.registry.wf → t.registry.wf) := by
  dsimp only
  obtain ⟨m, out, hupdate, hwf⟩ :=
    devUpdate_frame hardware serial status now (rxhMark hardware true now (checkedState hardware p held))
  obtain ⟨rl, marked, hmark⟩ := rxhMark_frame hardware true now (checkedState hardware p held)
  rw [hmark] at hupdate hwf ⊢
  rw [hupdate]
  exact ⟨countUp_hardware _, rfl, rfl, rfl, hwf⟩

/-- The fault state of a step that leaves it alone. -/
theorem inv_of_same_fault {s t : State} (hinv : s.Inv) (hhalted : t.halted = s.halted)
    (hcause : t.faultCause = s.faultCause) (hwf : t.registry.wf) (hdecim : t.decimCount ≤ 16)
    (hwindow : WindowKept s t) : t.Inv where
  registry_wf := hwf
  decim_le := hdecim
  window_clean hrun := by
    rcases hwindow with hframe | hclean
    · exact hframe ▸ hinv.window_clean (hhalted ▸ hrun)
    · exact hclean
  cause_running hrun := hcause.trans (hinv.cause_running (hhalted ▸ hrun))
  cause_halted hhalt := hcause ▸ hinv.cause_halted (hhalted ▸ hhalt)

/-- The fault state of a step that a clock fault abandons. -/
theorem inv_of_fault {t : State} (hhalted : t.halted = true) (hcause : t.faultCause = 1#2 ∨ t.faultCause = 2#2)
    (hwf : t.registry.wf) (hdecim : t.decimCount ≤ 16) : t.Inv where
  registry_wf := hwf
  decim_le := hdecim
  window_clean hrun := nomatch hhalted.symm.trans hrun
  cause_running hrun := nomatch hhalted.symm.trans hrun
  cause_halted _ := hcause

/-- Every form of a step keeps the invariant; the decimator's bound is the business of the stages in front. -/
theorem StepForm.inv {i : Instr} {s t : State} (h : StepForm i s t) (hinv : s.Inv) (hdecim : t.decimCount ≤ 16) : t.Inv := by
  have hwf := hinv.registry_wf
  cases h with
  | reset carriedOut result =>
    rw [result]
    exact resetBlock_inv _
  | quiet back window =>
    exact inv_of_same_fault hinv back.halted back.faultCause (back.registry ▸ hwf) hdecim window
  | rejected running held p before back window =>
    have hregistry : t.registry = s.registry := back.registry.trans before.registry
    exact inv_of_same_fault hinv (back.halted.trans before.halted) (back.faultCause.trans before.faultCause)
      (hregistry ▸ hwf) hdecim window
  | accepted running held p now before back window =>
    obtain ⟨-, -, hhalted, hcause, hkeeps⟩ := fields_of_accepted p (serialOf p) (statusOf p) now held
    have hheld : held.registry = s.registry := before.registry
    exact inv_of_same_fault hinv ((back.halted.trans hhalted).trans before.halted)
      ((back.faultCause.trans hcause).trans before.faultCause) (back.registry ▸ hkeeps (hheld ▸ hwf)) hdecim window
  | abandoned running held p before back phase =>
    have hregistry : t.registry = s.registry := back.registry.trans before.registry
    exact inv_of_fault back.halted (.inl back.faultCause) (hregistry ▸ hwf) hdecim
  | marked running g now result =>
    obtain ⟨rl, out, hmark⟩ := rxhMark_frame hardware g now s.startStep
    rw [result, hmark] at hdecim ⊢
    exact inv_of_same_fault hinv rfl rfl hwf hdecim (.inl rfl)
  | clockLost running result =>
    rw [result] at hdecim ⊢
    exact inv_of_fault rfl (.inr rfl) hwf hdecim
  | updated running serial status now result =>
    obtain ⟨m, out, hupdate, hkeeps⟩ := devUpdate_frame hardware serial status now s.startStep
    rw [result, hupdate] at hdecim ⊢
    exact inv_of_same_fault hinv rfl rfl (hkeeps hwf) hdecim (.inl rfl)
  | notified running serial status now result =>
    obtain ⟨m, out, k, hnotify, hkeeps⟩ := devNotify_frame hardware serial status now s.startStep
    rw [result, hnotify] at hdecim ⊢
    exact inv_of_same_fault hinv rfl rfl (hkeeps hwf) hdecim (.inl rfl)
  | swept running now result =>
    obtain ⟨m, out, hsweep, hkeeps, -, -⟩ := sweepAll_frame hardware now s.startStep
    rw [result, hsweep] at hdecim ⊢
    exact inv_of_same_fault hinv rfl rfl (hkeeps hwf) hdecim (.inl rfl)

/-- The decimator counts to 16 or starts over (rules R28 item 4, R91). -/
theorem envDecim_decimCount_le {s : State} (h : s.decimCount ≤ 16) (clock : Clock) :
    (envDecim hardware clock s).state.decimCount ≤ 16 := by
  by_cases hcount : s.decimCount + 1 = hardware.decimRatio
  · rw [envDecim_of_count_eq hcount, (peakForward_keepsFrontEnd hardware s.smoothed clock _).decimCount]
    exact Nat.zero_le 16
  · have hratio : s.decimCount + 1 ≠ 17 := hcount
    rw [envDecim_of_count_ne hcount, returned_state]
    dsimp only
    omega

theorem exec_decimCount_le {i : Instr} {s t : State} (hdecim : s.decimCount ≤ 16) (h : exec i s = .next t) :
    t.decimCount ≤ 16 := by
  have hcall (op : State → Call) (hop : (op s.startStep).state.decimCount ≤ 16) : (runCall s op).decimCount ≤ 16 := by
    unfold runCall
    split
    · exact hdecim
    · exact hop
  by_cases hstage : entryStage i ≤ 2
  case neg => rwa [(exec_writesFrom h).decimCount hstage]
  case pos =>
    cases i with
    | reset =>
      obtain rfl := Host.Outcome.next.inj h
      exact Nat.zero_le 16
    | sample m now nowValid =>
      obtain rfl := Host.Outcome.next.inj h
      exact hcall _ (envDecim_decimCount_le (s := envFilter hardware m s.startStep) hdecim ⟨now, nowValid⟩)
    | envDecim now nowValid =>
      obtain rfl := Host.Outcome.next.inj h
      exact hcall _ (envDecim_decimCount_le (s := s.startStep) hdecim ⟨now, nowValid⟩)
    | _ => simp [entryStage] at hstage

theorem exec_inv {i : Instr} {s t : State} (hinv : s.Inv) (h : exec i s = .next t) : t.Inv :=
  (exec_stepForm h).inv hinv (exec_decimCount_le hinv.decim_le h)

/-- The operations still to be presented are not part of the invariant. -/
theorem inv_setInput {s : State} (hinv : s.Inv) (input : List OpWord) : State.Inv { s with input := input } :=
  ⟨hinv.registry_wf, hinv.decim_le, hinv.window_clean, hinv.cause_running, hinv.cause_halted⟩

/-- Settles O10: a step that answers a next state carried out an operation. -/
theorem stepKeepsTheInvariant : Obligations.StepKeepsTheInvariant := by
  unfold Obligations.StepKeepsTheInvariant
  intro s t hinv h
  cases hinput : s.input with
  | nil =>
    rw [step_of_no_input hinput] at h
    exact exec_inv hinv h
  | cons w rest =>
    cases hdecode : decode w with
    | ok i =>
      rw [step_of_word hinput hdecode] at h
      exact exec_inv (inv_setInput hinv rest) h
    | error r =>
      rw [step_of_bad_word hinput hdecode] at h
      cases h

/-- Settles O43: the error counter counts only with the payload counter. -/
theorem errorsNeverExceedPayloads : Obligations.ErrorsNeverExceedPayloads := by
  unfold Obligations.ErrorsNeverExceedPayloads
  intro i s t h hmax hle
  have hcounted : s.errorCount ≤ s.payloadCount + 1 := by bv_omega
  have hboth : s.errorCount + 1 ≤ s.payloadCount + 1 := by bv_omega
  cases exec_stepForm h with
  | reset carriedOut result => rw [result]; exact BitVec.le_refl _
  | quiet back window => rwa [back.errorCount, back.payloadCount]
  | rejected running held p before back window =>
    rw [back.errorCount, back.payloadCount]
    simpa only [checkedState, countUp_hardware, before.errorCount, before.payloadCount,
      startStep_errorCount, startStep_payloadCount] using hboth
  | accepted running held p now before back window =>
    obtain ⟨hpayloads, herrors, -, -, -⟩ := fields_of_accepted p (serialOf p) (statusOf p) now held
    rw [back.errorCount, back.payloadCount, hpayloads, herrors, before.errorCount, before.payloadCount]
    exact hcounted
  | abandoned running held p before back phase =>
    rw [back.errorCount, back.payloadCount]
    simpa only [checkedState, countUp_hardware, before.errorCount, before.payloadCount,
      startStep_errorCount, startStep_payloadCount] using hcounted
  | marked running g now result => rw [result, rxhMark_spec]; exact hle
  | clockLost running result => rw [result]; exact hle
  | updated running serial status now result =>
    obtain ⟨m, out, hupdate, -⟩ := devUpdate_frame hardware serial status now s.startStep
    rw [result, hupdate]
    exact hle
  | notified running serial status now result =>
    obtain ⟨m, out, k, hnotify, -⟩ := devNotify_frame hardware serial status now s.startStep
    rw [result, hnotify]
    exact hle
  | swept running now result =>
    obtain ⟨m, out, hsweep, -⟩ := sweepAll_frame hardware now s.startStep
    rw [result, hsweep]
    exact hle

/-- Settles O12: of the forms of a step from a running block only the two clock faults halt it. -/
theorem faultingStepProducesNothing : Obligations.FaultingStepProducesNothing := by
  unfold Obligations.FaultingStepProducesNothing
  intro i s t hrun h hhalted
  have hkept : ¬ t.halted = s.halted := fun hsame => nomatch hhalted.symm.trans (hsame.trans hrun)
  cases exec_stepForm h with
  | reset carriedOut result =>
    rw [result] at hhalted
    cases hhalted
  | quiet back window => exact absurd back.halted hkept
  | rejected running held p before back window => exact absurd (back.halted.trans before.halted) hkept
  | accepted running held p now before back window =>
    obtain ⟨-, -, hheld, -, -⟩ := fields_of_accepted p (serialOf p) (statusOf p) now held
    exact absurd ((back.halted.trans hheld).trans before.halted) hkept
  | abandoned running held p before back phase =>
    have hpayloads : t.payloadCount = s.payloadCount + 1 :=
      (back.payloadCount.trans (countUp_hardware _)).trans (congrArg (· + 1) before.payloadCount)
    exact ⟨back.output.trans before.output, back.registry.trans before.registry, back.rxGood.trans before.rxGood,
      back.rxLastPublishTime.trans before.rxLastPublishTime, back.errorCount.trans before.errorCount, phase,
      .inl ⟨back.faultCause, hpayloads⟩⟩
  | marked running g now result =>
    refine absurd ?_ hkept
    rw [result, rxhMark_halted, startStep_halted]
  | clockLost running result =>
    rw [result]
    exact ⟨rfl, rfl, rfl, rfl, rfl, rfl, .inr ⟨rfl, rfl⟩⟩
  | updated running serial status now result =>
    obtain ⟨m, out, hupdate, -⟩ := devUpdate_frame hardware serial status now s.startStep
    exact absurd (by rw [result, hupdate]; rfl) hkept
  | notified running serial status now result =>
    obtain ⟨m, out, k, hnotify, -⟩ := devNotify_frame hardware serial status now s.startStep
    exact absurd (by rw [result, hnotify]; rfl) hkept
  | swept running now result =>
    obtain ⟨m, out, hsweep, -⟩ := sweepAll_frame hardware now s.startStep
    exact absurd (by rw [result, hsweep]; rfl) hkept

end Sys2Proof.Proofs
end

section
/-! SUPPORT. The registry over a step: no entry is lost and no baseline rises (rules R21, R28 item 1). -/

namespace Sys2Proof.Proofs

open Sys2Proof Sys2Proof.Machine

/-- Every entry of `m` is in `n`, with a baseline not above the one it had. -/
def EntriesStay (m n : Memory) : Prop :=
  ∀ serial e, memRead m serial = some e →
    ∃ e', memRead n serial = some e' ∧ e'.minAlarmStateSeen ≤ e.minAlarmStateSeen

theorem EntriesStay.refl (m : Memory) : EntriesStay m m := fun _ e he => ⟨e, he, BitVec.le_refl _⟩

theorem EntriesStay.trans {m n o : Memory} (hmn : EntriesStay m n) (hno : EntriesStay n o) : EntriesStay m o := by
  intro serial e he
  obtain ⟨e', he', hle⟩ := hmn serial e he
  obtain ⟨e'', he'', hle'⟩ := hno serial e' he'
  exact ⟨e'', he'', BitVec.le_trans hle' hle⟩

theorem entriesStay_memWrite {m : Memory} {serial : Serial} {stored : DeviceState}
    (h : ∀ e, memRead m serial = some e → stored.minAlarmStateSeen ≤ e.minAlarmStateSeen) :
    EntriesStay m (memWrite m serial stored) := by
  intro x e he
  rw [memRead_memWrite]
  split
  case isTrue hx =>
    subst hx
    exact ⟨stored, rfl, h e he⟩
  case isFalse => exact ⟨e, he, BitVec.le_refl _⟩

theorem flaggedBy_minAlarmStateSeen (cfg : Config) (now : Time) (e : DeviceState) :
    (flaggedBy cfg now e).minAlarmStateSeen = e.minAlarmStateSeen := by
  unfold flaggedBy
  split <;> rfl

/-- A sweep writes timeout flags alone. -/
theorem entriesStay_sweepAll (cfg : Config) (now : Time) (s : State) :
    EntriesStay s.registry (sweepAll cfg now s).registry := by
  obtain ⟨m, out, hsweep, -, hread, -⟩ := sweepAll_frame cfg now s
  rw [hsweep]
  intro x e he
  rcases hread x with hsame | hflagged
  · exact ⟨e, hsame.trans he, BitVec.le_refl _⟩
  · rw [he] at hflagged
    exact ⟨_, hflagged, BitVec.le_of_eq (flaggedBy_minAlarmStateSeen cfg now e)⟩

/-- The bookkeeping of a notification is written back over the record that was read, if there was one. -/
theorem entriesStay_memRefresh {m : Memory} {serial : Serial} {e kept : DeviceState}
    (hread : ∀ old, memRead m serial = some old → old = e) (hkept : kept.minAlarmStateSeen = e.minAlarmStateSeen) :
    EntriesStay m (memRefresh m serial kept) := by
  unfold memRefresh
  split
  · exact entriesStay_memWrite fun old hold => BitVec.le_of_eq (hread old hold ▸ hkept)
  · exact .refl m

theorem entriesStay_notifyDevice (cfg : Config) {serial : Serial} (status : Byte) (now : Time) {e : DeviceState}
    {s : State} (hread : ∀ old, memRead s.registry serial = some old → old = e) :
    EntriesStay s.registry (notifyDevice cfg serial status now e s).registry := by
  have hkept : EntriesStay s.registry
      (memRefresh s.registry serial { e with lastUpdateTime := now, lastRawState := status }) :=
    entriesStay_memRefresh hread rfl
  have hswept : ∀ t : State, EntriesStay s.registry t.registry → EntriesStay s.registry (sweepAll cfg now t).registry :=
    fun t ht => ht.trans (entriesStay_sweepAll cfg now t)
  dsimp only [notifyDevice, emit_registry]
  exact hswept _ hkept

theorem entriesStay_devNotify (cfg : Config) (serial : Serial) (status : Byte) (now : Time) (s : State) :
    EntriesStay s.registry (devNotify cfg serial status now s).registry := by
  unfold devNotify notifyRead
  cases hread : memRead s.registry serial with
  | none =>
    dsimp only
    split
    · exact entriesStay_notifyDevice cfg status now (s := { s with freeReads := s.freeReads + 1 })
        fun old hold => nomatch hread.symm.trans hold
    · exact .refl _
  | some e =>
    dsimp only
    split
    · exact entriesStay_notifyDevice cfg status now fun old hold => Option.some.inj (hold.symm.trans hread)
    · exact .refl _

/-- The baseline that an update stores is lowered, never raised (rule R168). -/
theorem storedDevice_baseline_le (cfg : Config) {m : Memory} {serial : Serial} {e : DeviceState}
    (h : memRead m serial = some e) (status : Byte) (now : Time) :
    (storedDevice cfg m serial status now).minAlarmStateSeen ≤ e.minAlarmStateSeen := by
  rw [storedDevice, h, Option.getD_some, updatedDevice]
  dsimp only
  unfold lowerBaseline
  split
  case isTrue hlower => exact BitVec.le_of_lt hlower
  case isFalse => exact BitVec.le_refl _

theorem entriesStay_devUpdate (cfg : Config) (serial : Serial) (status : Byte) (now : Time) (s : State) :
    EntriesStay s.registry (devUpdate cfg serial status now s).registry :=
  (entriesStay_memWrite fun _ he => storedDevice_baseline_le cfg he status now).trans
    (entriesStay_devNotify cfg serial status now
      { s with registry := memWrite s.registry serial (storedDevice cfg s.registry serial status now) })

/-- Settles O11: of the forms of a step but `RESET`, those that reach the registry. -/
theorem baselinesNeverRiseAndEntriesStay : Obligations.BaselinesNeverRiseAndEntriesStay := by
  unfold Obligations.BaselinesNeverRiseAndEntriesStay
  intro i s t serial e hi h
  suffices hstay : EntriesStay s.registry t.registry from hstay serial e
  cases exec_stepForm h with
  | reset carriedOut result => exact absurd carriedOut hi
  | quiet back window => rw [back.registry]; exact .refl _
  | rejected running held p before back window => rw [back.registry.trans before.registry]; exact .refl _
  | accepted running held p now before back window =>
    have hheld : (rxhMark hardware true now (checkedState hardware p held)).registry = s.registry := by
      rw [rxhMark_spec]
      exact before.registry
    rw [back.registry, ← hheld]
    exact entriesStay_devUpdate hardware _ _ now _
  | abandoned running held p before back phase => rw [back.registry.trans before.registry]; exact .refl _
  | marked running g now result => rw [result, rxhMark_spec]; exact .refl _
  | clockLost running result => rw [result]; exact .refl _
  | updated running serial status now result => rw [result]; exact entriesStay_devUpdate hardware serial status now s.startStep
  | notified running serial status now result => rw [result]; exact entriesStay_devNotify hardware serial status now s.startStep
  | swept running now result => rw [result]; exact entriesStay_sweepAll hardware now s.startStep

end Sys2Proof.Proofs
end

section
/-! SUPPORT. What an update notifies and leaves (rules R168 to R178, R193), and the order of a sweep (rule R195). -/

namespace Sys2Proof.Proofs

open Sys2Proof Sys2Proof.Machine

/-- An update hands something out exactly if the gate passes on the record it stores. -/
theorem devUpdate_output_ne_nil_iff (cfg : Config) (serial : Serial) (status : Byte) (now : Time) {s : State}
    (hempty : s.output = []) :
    (devUpdate cfg serial status now s).output ≠ [] ↔
      notifyGate cfg status now (storedDevice cfg s.registry serial status now) = true := by
  rw [devUpdate_eq_gated_notify]
  split
  case isTrue hgate =>
    obtain ⟨m, out, hnotify, -⟩ := notifyDevice_frame cfg serial status now
      (storedDevice cfg s.registry serial status now)
      { s with registry := memWrite s.registry serial (storedDevice cfg s.registry serial status now) }
    rw [hnotify]
    simp [hgate]
  case isFalse hgate => simp [hempty, hgate]

/-- What a notified update leaves of its own serial (rules R28 item 2, R176). -/
theorem memRead_of_notified (cfg : Config) {serial : Serial} {status : Byte} {now : Time} {s : State}
    (hempty : s.output = []) (hnotified : (devUpdate cfg serial status now s).output ≠ []) :
    memRead (devUpdate cfg serial status now s).registry serial =
      some { storedDevice cfg s.registry serial status now with lastUpdateTime := now, lastRawState := status } := by
  have hgate := (devUpdate_output_ne_nil_iff cfg serial status now hempty).mp hnotified
  rw [memRead_devUpdate_same, if_pos hgate]

/-- Settles O52: the record that the update stores has its flag cleared, and the sweep leaves it. -/
theorem notifiedDeviceIsNotTimedOut : Obligations.NotifiedDeviceIsNotTimedOut := by
  unfold Obligations.NotifiedDeviceIsNotTimedOut
  intro s t serial status now nowValid hrun h hnotified
  rw [exec_devUpdate_running hrun] at h
  obtain rfl := Host.Outcome.next.inj h
  exact ⟨_, memRead_of_notified hardware (s := s.startStep) rfl hnotified, rfl, rfl, rfl⟩

theorem devUpdate_halted (cfg : Config) (serial : Serial) (status : Byte) (now : Time) (s : State) :
    (devUpdate cfg serial status now s).halted = s.halted := by
  obtain ⟨m, out, hupdate, -⟩ := devUpdate_frame cfg serial status now s
  rw [hupdate]

/-- The record stored for a present serial has the raw byte and the time of the last notification. -/
theorem storedDevice_of_present (cfg : Config) {m : Memory} {serial : Serial} {e : DeviceState}
    (h : memRead m serial = some e) (status : Byte) (now : Time) :
    storedDevice cfg m serial status now = updatedDevice cfg status now e := by
  rw [storedDevice, h, Option.getD_some]

theorem storedDevice_of_absent (cfg : Config) {m : Memory} {serial : Serial} (h : memRead m serial = none)
    (status : Byte) (now : Time) :
    storedDevice cfg m serial status now = updatedDevice cfg status now (freshDevice cfg) := by
  rw [storedDevice, h, Option.getD_none]

/-- The gate reads of the stored record only what the update leaves as it was. -/
theorem notifyGate_updatedDevice (status : Byte) (now : Time) (e : DeviceState) :
    notifyGate hardware status now (updatedDevice hardware status now e) = true ↔
      status ≠ e.lastRawState ∨ 60#64 < now - e.lastUpdateTime :=
  notifyGate_hardware status now _

/-- Settles O53: the second gate reads the bookkeeping of the first notification. -/
theorem notificationDedup : Obligations.NotificationDedup := by
  unfold Obligations.NotificationDedup
  intro s t u serial first second t₁ t₂ v₁ v₂ hrun hfirst hnotified hsecond
  rw [exec_devUpdate_running hrun] at hfirst
  obtain rfl := Host.Outcome.next.inj hfirst
  have hrun' := (devUpdate_halted hardware serial first t₁ s.startStep).trans hrun
  rw [exec_devUpdate_running hrun'] at hsecond
  obtain rfl := Host.Outcome.next.inj hsecond
  have hread := memRead_of_notified hardware (s := s.startStep) rfl hnotified
  rw [devUpdate_output_ne_nil_iff hardware serial second t₂ (startStep_output _), startStep_registry,
    storedDevice_of_present hardware hread, notifyGate_updatedDevice]

/-- Settles O54: a fresh record has the byte 0 and the time 0. -/
theorem firstSightingNearTheEpoch : Obligations.FirstSightingNearTheEpoch := by
  unfold Obligations.FirstSightingNearTheEpoch
  intro s serial status now nowValid hrun habsent
  refine ⟨_, exec_devUpdate_running hrun serial status ⟨now, nowValid⟩, ?_, ?_⟩
  · rw [memRead_devUpdate_same]
    rfl
  · rw [devUpdate_output_ne_nil_iff hardware serial status now (startStep_output s), startStep_registry,
      storedDevice_of_absent hardware habsent, notifyGate_updatedDevice, freshDevice_hardware, BitVec.sub_zero, or_comm]

/-- The lowered baseline is the smaller of the two (rule R168). -/
theorem lowerBaseline_le_left (baseline state : Byte) : lowerBaseline baseline state ≤ baseline := by
  unfold lowerBaseline
  split
  · exact BitVec.le_of_lt ‹_›
  · exact BitVec.le_refl _

theorem lowerBaseline_le_right (baseline state : Byte) : lowerBaseline baseline state ≤ state := by
  unfold lowerBaseline
  split
  · exact BitVec.le_refl _
  · exact BitVec.not_lt.mp ‹_›

/-- The alarm compares with the lowered baseline, which makes no difference to the comparison (rule R169). -/
theorem alarmFlag_lowerBaseline (baseline state : Byte) :
    alarmFlag state (lowerBaseline baseline state) = true ↔ baseline < state := by
  rw [alarmFlag, decide_eq_true_iff, lowerBaseline]
  split
  case isTrue hlower => exact iff_of_false (BitVec.lt_irrefl _) (BitVec.not_lt.mpr (BitVec.le_of_lt hlower))
  case isFalse => exact Iff.rfl

/-- No byte exceeds the sentinel. -/
theorem not_sentinel_lt (state : Byte) : ¬ hardware.baselineSentinel < state :=
  BitVec.not_lt.mpr (BitVec.le_def.mpr (Nat.le_of_lt_succ state.isLt))

/-- What the next state has of the record an update stored, but for the bookkeeping of a notification. -/
theorem memRead_devUpdate_flags (cfg : Config) (serial : Serial) (status : Byte) (now : Time) (s : State) :
    let stored := storedDevice cfg s.registry serial status now
    ∃ e', memRead (devUpdate cfg serial status now s).registry serial = some e' ∧ e'.alarm = stored.alarm ∧
      e'.minAlarmStateSeen = stored.minAlarmStateSeen := by
  refine ⟨_, memRead_devUpdate_same cfg serial status now s, ?_⟩
  split <;> exact ⟨rfl, rfl⟩

/-- Settles O55: the baseline before is the sentinel of a fresh record, or that of the entry. -/
theorem alarmEdge : Obligations.AlarmEdge := by
  unfold Obligations.AlarmEdge
  intro s serial status now nowValid hrun
  obtain ⟨e', hread, halarm, hbaseline⟩ := memRead_devUpdate_flags hardware serial status now s.startStep
  refine ⟨_, e', exec_devUpdate_running hrun serial status ⟨now, nowValid⟩, hread, fun habsent => ?_,
    fun e hpresent => ?_⟩
  · rw [halarm, startStep_registry, storedDevice_of_absent hardware habsent, Bool.eq_false_iff]
    exact mt (alarmFlag_lowerBaseline _ _).mp (not_sentinel_lt _)
  · rw [halarm, hbaseline, startStep_registry, storedDevice_of_present hardware hpresent]
    exact ⟨alarmFlag_lowerBaseline _ _, lowerBaseline_le_left _ _, lowerBaseline_le_right _ _⟩

/-- The entries of other serials over an update (rule R223 case d). -/
theorem memRead_devUpdate_other (cfg : Config) {serial other : Serial} (h : other ≠ serial) (status : Byte)
    (now : Time) (s : State) :
    memRead (devUpdate cfg serial status now s).registry other = memRead s.registry other ∨
      memRead (devUpdate cfg serial status now s).registry other =
        (memRead s.registry other).map (flaggedBy cfg now) := by
  have hwritten := memRead_memWrite_other s.registry (storedDevice cfg s.registry serial status now) h
  rw [devUpdate_eq_gated_notify]
  split
  case isTrue =>
    obtain ⟨m, out, hnotify, -, hread, -⟩ := notifyDevice_frame cfg serial status now
      (storedDevice cfg s.registry serial status now)
      { s with registry := memWrite s.registry serial (storedDevice cfg s.registry serial status now) }
    have hother := hread other
    simp only [if_neg h, hwritten] at hother
    rwa [hnotify]
  case isFalse => exact .inl hwritten

/-- Settles O47. -/
theorem updateTouchesOneEntry : Obligations.UpdateTouchesOneEntry := by
  unfold Obligations.UpdateTouchesOneEntry
  intro s t serial other status now nowValid h hother
  cases hrun : s.halted with
  | true =>
    rw [exec_halted (by simp) hrun] at h
    obtain rfl := Host.Outcome.next.inj h
    exact ⟨id, fun e he => .inl he⟩
  | false =>
    rw [exec_devUpdate_running hrun] at h
    obtain rfl := Host.Outcome.next.inj h
    have hread := memRead_devUpdate_other hardware hother status now s.startStep
    rw [startStep_registry] at hread
    refine ⟨fun habsent => ?absent, fun e hpresent => ?present⟩
    case absent =>
      rw [habsent, Option.map_none, or_self] at hread
      exact hread
    case present =>
      rw [hpresent, Option.map_some, flaggedBy_hardware, flagged] at hread
      split at hread
      case isTrue hsilent => exact hread.imp_right fun hflagged => ⟨hflagged, hsilent.1⟩
      case isFalse => exact .inl (or_self_iff.mp hread)

/-- Settles O49. -/
theorem notifyOfAnAbsentSerialGoesOn : Obligations.NotifyOfAnAbsentSerialGoesOn := by
  unfold Obligations.NotifyOfAnAbsentSerialGoesOn
  intro s serial status now nowValid hrun _
  have hhalted : (devNotify hardware serial status now s.startStep).halted = false := by
    obtain ⟨m, out, k, hnotify, -⟩ := devNotify_frame hardware serial status now s.startStep
    rw [hnotify]
    exact hrun
  exact ⟨_, exec_devNotify_running hrun serial status ⟨now, nowValid⟩, hhalted,
    fun other hother => devNotify_creates_none hardware serial status now s.startStep hother⟩

/-- The test of a visit reads only the timeout and the width of time of the configuration. -/
theorem timesOut_congr {cfg other : Config} (htimeout : cfg.sensorTimeout = other.sensorTimeout)
    (hwidth : cfg.timeWidth = other.timeWidth) : timesOut cfg = timesOut other := by
  funext now e
  rw [timesOut, timesOut, htimeout, elapsed, elapsed, hwidth]

/-- Settles O51: both sweeps flag every record that times out, and visit the same serials. -/
theorem sweepOrderDoesNotMatter : Obligations.SweepOrderDoesNotMatter := by
  unfold Obligations.SweepOrderDoesNotMatter
  intro cfg other now s hwf hcfg hother htimeout hwidth
  have htest := timesOut_congr htimeout hwidth
  have hflag : flaggedBy cfg now = flaggedBy other now := by
    funext e
    rw [flaggedBy, flaggedBy, htest]
  have hevent : timeoutEvent cfg now s.registry = timeoutEvent other now s.registry := by
    funext serial
    rw [timeoutEvent, timeoutEvent, htest]
  obtain ⟨m, hsweep, hread, hm⟩ := sweepAll_spec hcfg now s hwf
  obtain ⟨n, hsweep', hread', hn⟩ := sweepAll_spec hother now s hwf
  rw [hsweep, hsweep', hevent]
  refine ⟨memory_ext hm hn fun serial => ?_, .append_left _ (.flatMap_right _ ((hcfg _).trans (hother _).symm))⟩
  rw [hread, hread', hflag]

end Sys2Proof.Proofs
end

section
/-! SUPPORT. The events of a step are legal (rules R78, R80). -/

namespace Sys2Proof.Proofs

open Sys2Proof Sys2Proof.Machine

/-- All events that a list holds are legal. -/
def AllLegal (events : List Event) : Prop := ∀ e ∈ events, e.legal

theorem allLegal_nil : AllLegal [] := fun _ h => nomatch h

theorem AllLegal.append {first second : List Event} (hfirst : AllLegal first) (hsecond : AllLegal second) :
    AllLegal (first ++ second) :=
  fun e h => (List.mem_append.mp h).elim (hfirst e) (hsecond e)

theorem legal_publish_alarm (serial : Serial) (alarm : Bool) :
    Event.legal (.publish .alarm serial (alarmPayload alarm)) :=
  ⟨by cases alarm <;> rfl, fun h => nomatch h⟩

theorem legal_publish_status (serial : Serial) (tamper batteryLow : Bool) :
    Event.legal (.publish .status serial (statusPayload tamper batteryLow)) :=
  ⟨by cases tamper <;> cases batteryLow <;> rfl, fun h => nomatch h⟩

theorem legal_publish_rxStatus (g : Bool) : Event.legal (.publish .rxStatus 0#20 (if g then .ok else .failed)) :=
  ⟨by cases g <;> rfl, fun _ => rfl⟩

theorem allLegal_of_timeouts {events : List Event} (h : ∀ e ∈ events, ∃ x, e = .publish .status x .timeout) :
    AllLegal events := by
  intro e he
  obtain ⟨x, rfl⟩ := h e he
  exact ⟨rfl, fun h => nomatch h⟩

theorem allLegal_sweepAll (cfg : Config) (now : Time) {s : State} (h : AllLegal s.output) :
    AllLegal (sweepAll cfg now s).output := by
  obtain ⟨m, out, hsweep, -, -, htimeouts⟩ := sweepAll_frame cfg now s
  rw [hsweep]
  exact h.append (allLegal_of_timeouts htimeouts)

theorem allLegal_rxhMark (cfg : Config) (g : Bool) (now : Time) {s : State} (h : AllLegal s.output) :
    AllLegal (rxhMark cfg g now s).output := by
  rw [rxhMark_spec]
  refine h.append ?_
  split
  · exact List.forall_mem_singleton.mpr (legal_publish_rxStatus g)
  · exact allLegal_nil

theorem allLegal_notifyDevice (cfg : Config) (serial : Serial) (status : Byte) (now : Time) (e : DeviceState)
    {s : State} (h : AllLegal s.output) : AllLegal (notifyDevice cfg serial status now e s).output := by
  obtain ⟨m, out, hnotify, -, -, htimeouts⟩ := notifyDevice_frame cfg serial status now e s
  have hpublished : AllLegal [.publish .alarm serial (alarmPayload e.alarm),
      .publish .status serial (statusPayload e.tamper e.batteryLow)] :=
    List.forall_mem_cons.mpr ⟨legal_publish_alarm serial e.alarm,
      List.forall_mem_singleton.mpr (legal_publish_status serial e.tamper e.batteryLow)⟩
  have hlisting : AllLegal [.deviceList serial (listing m)] := List.forall_mem_singleton.mpr trivial
  rw [hnotify]
  exact h.append ((hpublished.append (allLegal_of_timeouts htimeouts)).append hlisting)

theorem allLegal_devNotify (cfg : Config) (serial : Serial) (status : Byte) (now : Time) {s : State}
    (h : AllLegal s.output) : AllLegal (devNotify cfg serial status now s).output := by
  have hread : (notifyRead serial s).2.output = s.output := by
    unfold notifyRead
    split <;> rfl
  unfold devNotify
  dsimp only
  split
  · exact allLegal_notifyDevice cfg serial status now _ (hread ▸ h)
  · exact hread ▸ h

/-- Settles O57, by the forms of a step. -/
theorem everyPublishEventIsLegal : Obligations.EveryPublishEventIsLegal := by
  unfold Obligations.EveryPublishEventIsLegal
  intro i s t h
  change AllLegal t.output
  cases exec_stepForm h with
  | reset carriedOut result => rw [result]; exact allLegal_nil
  | quiet back window => rw [back.output]; exact allLegal_nil
  | rejected running held p before back window => rw [back.output]; exact List.forall_mem_singleton.mpr trivial
  | accepted running held p now before back window =>
    have hheld : AllLegal held.output := before.output ▸ allLegal_nil
    rw [back.output]
    exact allLegal_devNotify hardware _ _ now (allLegal_rxhMark hardware true now (s := checkedState hardware p held) hheld)
  | abandoned running held p before back phase => rw [back.output.trans before.output]; exact allLegal_nil
  | marked running g now result => rw [result]; exact allLegal_rxhMark hardware g now allLegal_nil
  | clockLost running result => rw [result]; exact allLegal_nil
  | updated running serial status now result => rw [result]; exact allLegal_devNotify hardware serial status now allLegal_nil
  | notified running serial status now result => rw [result]; exact allLegal_devNotify hardware serial status now allLegal_nil
  | swept running now result => rw [result]; exact allLegal_sweepAll hardware now allLegal_nil

end Sys2Proof.Proofs
end

section
/-! SUPPORT. The rows of the B states and the constant level (rules R123, R125, R128). -/

namespace Sys2Proof.Proofs

open Sys2Proof Sys2Proof.Machine

/-- A row that is selected is `MAN.STEP` of its sample (rule R65). -/
theorem runCall_manRow_of_phase {s : State} (hrun : s.halted = false) {row : Phase} (hphase : s.phase = row)
    {b : Byte} (hb : malformed b = false) (now : Time) (nowValid : Bool) :
    Host.Outcome.next (runCall s (manRow hardware row (b == 1#8) ⟨now, nowValid⟩)) =
      exec (.manStep b now nowValid) s := by
  rw [runCall_running hrun, manRow_of_phase (s := s.startStep) hphase, exec_manStep_running hrun, manStep_of_accepted hb]

theorem runCall_manRow_of_other_phase {s : State} (hrun : s.halted = false) {row : Phase} (hphase : s.phase ≠ row)
    (b : Bool) (clock : Clock) : runCall s (manRow hardware row b clock) = s.startStep := by
  rw [runCall_running hrun, manRow_of_other_phase (s := s.startStep) hphase, returned_state]

/-- With a readable clock an accepted sample leaves a running block, in the phase of the table (rule R121). -/
theorem exec_manStep_of_clock {s : State} (hrun : s.halted = false) {b : Byte} (hb : malformed b = false) (now : Time) :
    ∃ t, exec (.manStep b now true) s = .next t ∧ t.halted = false ∧ t.phase = nextPhase s.phase (b == 1#8) ∧
      (pendingBit s.phase = none → t.frame = s.frame) := by
  have hkept := (manStep_keepsFrontEnd hardware b ⟨now, true⟩ s.startStep).running rfl hrun
  have hexec := exec_manStep_running hrun b now true
  refine ⟨_, hexec, hkept, ?_⟩
  cases hpending : pendingBit s.phase with
  | none =>
    have hA : s.phase = .lowA ∨ s.phase = .highA := by
      cases hphase : s.phase <;> simp [hphase, pendingBit] at hpending ⊢
    rw [exec_manStep_of_A hrun hA hb] at hexec
    rw [← Host.Outcome.next.inj hexec]
    exact ⟨rfl, fun _ => rfl⟩
  | some d =>
    obtain ⟨t, -, hstep⟩ := exec_manStep_of_pending hrun hpending hb now true
    rw [hstep] at hexec
    have hresult := Host.Outcome.next.inj hexec
    rw [← hresult] at hkept ⊢
    by_cases hhalted : t.halted = true
    · rw [if_pos hhalted, hhalted] at hkept
      cases hkept
    · rw [if_neg hhalted, nextPhase_of_pending hpending]
      exact ⟨if_congr beq_iff_eq.symm rfl rfl, fun hnone => nomatch hnone⟩

/-- The two facts of O30 about a selected row of a B state: it is `MAN.STEP` of its sample, and with a clock that step
ends in the A state of the sample. -/
theorem exec_manStep_phase_of_pending {s : State} (hrun : s.halted = false) {d : Byte}
    (hpending : pendingBit s.phase = some d) {b : Byte} (hb : malformed b = false) (now : Time) :
    ∃ t, exec (.manStep b now true) s = .next t ∧ t.phase = (if b == 1#8 then .highA else .lowA) ∧
      t.halted = false := by
  obtain ⟨t, hstep, hrunning, hphase, -⟩ := exec_manStep_of_clock hrun hb now
  exact ⟨t, hstep, hphase.trans (nextPhase_of_pending hpending _), hrunning⟩

/-- Settles O30: the four rows are the two samples in the two B states. -/
theorem manRowsOfTheBStates : Obligations.ManRowsOfTheBStates := by
  unfold Obligations.ManRowsOfTheBStates
  intro s now nowValid hrun
  have hzero (row : Phase) (hphase : s.phase = row) (nowValid : Bool) :=
    runCall_manRow_of_phase hrun hphase (b := 0#8) rfl now nowValid
  have hone (row : Phase) (hphase : s.phase = row) (nowValid : Bool) :=
    runCall_manRow_of_phase hrun hphase (b := 1#8) rfl now nowValid
  have hother (row : Phase) (hphase : s.phase ≠ row) (b : Bool) :=
    congrArg (Host.Outcome.next (φ := Fault) (ρ := Refusal))
      (runCall_manRow_of_other_phase hrun hphase b ⟨now, nowValid⟩)
  refine ⟨fun hlowB => ?lowB, fun hhighB => ?highB, fun hphase => ?otherLow, fun hphase => ?otherHigh⟩
  case lowB =>
    obtain ⟨t, ht, hlow⟩ := exec_manStep_phase_of_pending hrun (congrArg pendingBit hlowB) (b := 0#8) rfl now
    obtain ⟨u, hu, hhigh⟩ := exec_manStep_phase_of_pending hrun (congrArg pendingBit hlowB) (b := 1#8) rfl now
    exact ⟨hzero _ hlowB nowValid, hone _ hlowB nowValid, ⟨t, (hzero _ hlowB true).trans ht, hlow⟩,
      u, (hone _ hlowB true).trans hu, hhigh⟩
  case highB =>
    obtain ⟨t, ht, hlow⟩ := exec_manStep_phase_of_pending hrun (congrArg pendingBit hhighB) (b := 0#8) rfl now
    obtain ⟨u, hu, hhigh⟩ := exec_manStep_phase_of_pending hrun (congrArg pendingBit hhighB) (b := 1#8) rfl now
    exact ⟨hzero _ hhighB nowValid, hone _ hhighB nowValid, ⟨t, (hzero _ hhighB true).trans ht, hlow⟩,
      u, (hone _ hhighB true).trans hu, hhigh⟩
  case otherLow => exact ⟨hother .lowB hphase false, hother .lowB hphase true⟩
  case otherHigh => exact ⟨hother .highB hphase false, hother .highB hphase true⟩

/-- The A state of a level. -/
def levelPhase (level : Bool) : Phase := if level then .highA else .lowA

/-- Two samples of one level end in its A state, where a third stays (rule R128). -/
theorem nextPhase_levelPhase (phase : Phase) (level : Bool) :
    nextPhase (nextPhase phase level) level = levelPhase level ∧
      nextPhase (levelPhase level) level = levelPhase level ∧ pendingBit (levelPhase level) = none := by
  cases phase <;> cases level <;> exact ⟨rfl, rfl, rfl⟩

theorem constantLevel_settles {s : State} (hrun : s.halted = false) {b : Byte} (hb : malformed b = false)
    (now : Time) :
    ∃ t u v, exec (.manStep b now true) s = .next t ∧ exec (.manStep b now true) t = .next u ∧
      u.phase = levelPhase (b == 1#8) ∧ exec (.manStep b now true) u = .next v ∧ v.phase = levelPhase (b == 1#8) ∧
      v.frame = u.frame := by
  obtain ⟨hsettled, hstays, hnone⟩ := nextPhase_levelPhase s.phase (b == 1#8)
  obtain ⟨t, ht, htrun, htphase, -⟩ := exec_manStep_of_clock hrun hb now
  obtain ⟨u, hu, hurun, huphase, -⟩ := exec_manStep_of_clock htrun hb now
  obtain ⟨v, hv, -, hvphase, hvframe⟩ := exec_manStep_of_clock hurun hb now
  have hu' : u.phase = levelPhase (b == 1#8) := by rw [huphase, htphase, hsettled]
  rw [hu', hstays] at hvphase
  exact ⟨t, u, v, ht, hu, hu', hv, hvphase, hvframe (hu' ▸ hnone)⟩

/-- Settles O31. -/
theorem constantLevelSettles : Obligations.ConstantLevelSettles := by
  unfold Obligations.ConstantLevelSettles
  intro s now hrun
  exact ⟨constantLevel_settles hrun (b := 0#8) rfl now, constantLevel_settles hrun (b := 1#8) rfl now⟩

end Sys2Proof.Proofs
end

section
/-! SUPPORT. A `SAMPLE` step that completes a payload, by its verdict: the clock it reads (rule R223), the state that a
clock fault leaves (rule R245) and the order of its events (rule R205). -/

namespace Sys2Proof.Proofs

open Sys2Proof Sys2Proof.Machine

/-- The late writes of the callers touch nothing that the validator has written. -/
theorem keepsBackEnd_andThen (c : Call) {finish : State → State} (finished : ∀ u, KeepsBackEnd u (finish u)) :
    KeepsBackEnd c.state (c.andThen fun u => .returned (finish u)).state := by
  cases c with
  | returned u => exact finished u
  | abandoned u => exact .refl u

/-- A call in the chain that halts the block was abandoned in `CRC.CHECK` of a payload it completed, for want of a
clock. -/
theorem ChainForm.of_halted {cfg : Config} {handed : BitVec 64 → Prop} {s : State} {op : Clock → Call}
    (h : ChainForm cfg handed s op) (hrun : s.halted = false) {clock : Clock}
    (hhalted : (op clock).state.halted = true) :
    clock.valid = false ∧ ∃ held, KeepsBackEnd s held ∧ held.phase = s.phase ∧ handed held.frame ∧
      syncOf held.frame = cfg.syncPattern ∧
      op clock = raiseClockFault clockAtPayload (checkedState cfg held.frame held) := by
  cases h with
  | quiet t back window runs =>
    rw [runs, returned_state, back.halted, hrun] at hhalted
    cases hhalted
  | dispatch held finish back hphase complete sync finished cleared runs =>
    rw [runs, (keepsBackEnd_andThen _ finished).halted,
      crcCheck_halted cfg held.frame clock (back.halted.trans hrun), Bool.and_eq_true, Bool.not_eq_true'] at hhalted
    obtain ⟨hvalid, hclock⟩ := hhalted
    refine ⟨hclock, held, back, hphase, complete, sync, ?_⟩
    rw [runs, crcCheck_of_no_clock hvalid hclock]
    rfl

/-- A chip that is not sampled does not halt the block. -/
theorem isMidBit_of_halted {cfg : Config} {c : Byte} (hchip : malformed c = false) {clock : Clock} {s : State}
    (hrun : s.halted = false) (hhalted : (syncChip cfg c clock s).state.halted = true) :
    isMidBit cfg (countedState c s).sinceEdge = true := by
  by_contra hbetween
  rw [syncChip_of_accepted hchip, if_neg hbetween, returned_state] at hhalted
  cases hhalted.symm.trans hrun

/-- The registers in front of the machine after a `PEAK.FORWARD` that a clock fault abandons: written as ever, at a
mid-bit count. -/
theorem peakForward_of_halted {v : Binary32} {clock : Clock} {s t : State} (hrun : s.halted = false)
    (ht : t = (peakForward hardware v clock s).state) (hhalted : t.halted = true) :
    t.smoothed = s.smoothed ∧ t.decimCount = s.decimCount ∧ t.ookMax = nextPeak hardware (clampTop hardware v) s.ookMax ∧
      t.lastChip = (chipOf hardware (clampTop hardware v) t.ookMax).setWidth 1 ∧
      t.sinceEdge = countChip t.lastChip s.lastChip s.sinceEdge ∧ t.sinceEdge % 8 = 4 := by
  have kept := peakForward_keepsFrontEnd hardware v clock s
  rw [← ht] at kept
  have hsample := isMidBit_of_halted (s := { s with ookMax := nextPeak hardware (clampTop hardware v) s.ookMax })
    (malformed_chipOf hardware _ _) hrun (ht ▸ hhalted)
  have hchip : t.lastChip = (chipOf hardware (clampTop hardware v) t.ookMax).setWidth 1 := by
    rw [kept.lastChip, kept.ookMax]
  have hcount : t.sinceEdge = countChip t.lastChip s.lastChip s.sinceEdge := by rw [kept.lastChip, kept.sinceEdge]
  have hmid : t.sinceEdge % 8 = 4 := kept.sinceEdge ▸ (isMidBit_hardware _).mp hsample
  exact ⟨kept.smoothed, kept.decimCount, kept.ookMax, hchip, hcount, hmid⟩

/-- The same of a sample, which is forwarded if it is abandoned. -/
theorem takeSample_of_halted {m : Binary32} {clock : Clock} {s t : State} (hrun : s.halted = false)
    (ht : t = (takeSample hardware m clock s).state) (hhalted : t.halted = true) :
    s.decimCount = 16 ∧ t.smoothed = smoothe hardware s.smoothed m ∧ t.decimCount = 0 ∧
      t.ookMax = nextPeak hardware (clampTop hardware t.smoothed) s.ookMax ∧
      t.lastChip = (chipOf hardware (clampTop hardware t.smoothed) t.ookMax).setWidth 1 ∧
      t.sinceEdge = countChip t.lastChip s.lastChip s.sinceEdge ∧ t.sinceEdge % 8 = 4 := by
  by_cases hcount : (envFilter hardware m s).decimCount + 1 = hardware.decimRatio
  · rw [takeSample, envDecim_of_count_eq hcount] at ht
    obtain ⟨hsmoothed, hdecim, hpeak, hchip, hedge, hmid⟩ :=
      peakForward_of_halted (s := { envFilter hardware m s with decimCount := 0 }) hrun ht hhalted
    have hforwarded : t.smoothed = (envFilter hardware m s).smoothed := hsmoothed
    rw [← hforwarded] at hpeak hchip
    exact ⟨Nat.succ.inj hcount, hforwarded, hdecim, hpeak, hchip, hedge, hmid⟩
  · rw [takeSample, envDecim_of_count_ne hcount] at ht
    have hrunning : t.halted = false := ht ▸ hrun
    cases hhalted.symm.trans hrunning

/-- Settles O13: the elements behind the validator by the one call that can have been abandoned, those in front of the
machine by the frame of the stages behind `PEAK.FORWARD`. -/
theorem stateAfterAnAbandonedSample : Obligations.StateAfterAnAbandonedSample := by
  unfold Obligations.StateAfterAnAbandonedSample
  intro s t m now nowValid hrun h hhalted
  rw [exec_sample_running hrun] at h
  have ht := (Host.Outcome.next.inj h).symm
  obtain ⟨hdecim, hsmoothed, hcount, hpeak, hchip, hedge, hmid⟩ :=
    takeSample_of_halted (s := s.startStep) hrun ht hhalted
  obtain ⟨hclock, held, back, hphase, ⟨d, hd, hframe⟩, hsync, hcall⟩ :=
    (takeSample_chainForm hardware m s.startStep).of_halted (clock := ⟨now, nowValid⟩) hrun (ht ▸ hhalted)
  rw [hcall] at ht
  have hframe' : t.frame = held.frame := by rw [ht]; rfl
  have hpayloads : t.payloadCount = s.payloadCount + 1 := by
    rw [ht, raiseClockFault_payloadCount, checkedState, countUp_hardware, back.payloadCount, startStep_payloadCount]
  refine ⟨hclock, hdecim, ⟨d, hd, hframe'.trans hframe, hframe' ▸ hsync⟩, hsmoothed.trans (smoothe_hardware _ _),
    hcount, hpeak, hchip, hedge, hmid, ?phase, hpayloads, ?errorCount, ?rxGood, ?rxTime, ?registry, ?faultCause, ?output⟩
  case phase => exact (congrArg State.phase ht).trans hphase
  case errorCount => exact (congrArg State.errorCount ht).trans back.errorCount
  case rxGood => exact (congrArg State.rxGood ht).trans back.rxGood
  case rxTime => exact (congrArg State.rxLastPublishTime ht).trans back.rxLastPublishTime
  case registry => exact (congrArg State.registry ht).trans back.registry
  case faultCause => exact congrArg State.faultCause ht
  case output => exact (congrArg State.output ht).trans back.output

/-- A valid payload is counted, and no error is, whatever the clock. -/
theorem counters_of_crcValid {cfg : Config} {p : Payload} (h : crcValid cfg p = true) (clock : Clock) (s : State) :
    (crcCheck cfg p clock s).state.payloadCount = countUp cfg s.payloadCount ∧
      (crcCheck cfg p clock s).state.errorCount = s.errorCount := by
  cases hclock : clock.valid with
  | false =>
    rw [crcCheck_of_no_clock h hclock]
    exact ⟨rfl, rfl⟩
  | true =>
    obtain ⟨m, out, hupdate, -⟩ := devUpdate_frame cfg (serialOf p) (statusOf p) clock.now
      (rxhMark cfg true clock.now (checkedState cfg p s))
    rw [crcCheck_of_clock h hclock, returned_state, hupdate, rxhMark_spec]
    exact ⟨rfl, rfl⟩

/-- A call in the chain reads the clock only if it counts a payload and no error. -/
theorem ChainForm.clock_free {handed : BitVec 64 → Prop} {s : State} {op : Clock → Call}
    (h : ChainForm hardware handed s op) {clock : Clock}
    (hcounters : (op clock).state.payloadCount = s.payloadCount ∨ (op clock).state.errorCount ≠ s.errorCount)
    (other : Clock) : op other = op clock := by
  cases h with
  | quiet t back window runs => rw [runs, runs]
  | dispatch held finish back hphase complete sync finished cleared runs =>
    cases hvalid : crcValid hardware held.frame with
    | false => rw [runs, runs, crcCheck_of_invalid hvalid, crcCheck_of_invalid hvalid]
    | true =>
      have late := keepsBackEnd_andThen (crcCheck hardware held.frame clock held) finished
      obtain ⟨hpayloads, herrors⟩ := counters_of_crcValid hvalid clock held
      rw [runs, late.payloadCount, hpayloads, late.errorCount, herrors, back.payloadCount, back.errorCount,
        countUp_hardware] at hcounters
      have hcounted : s.payloadCount + 1 ≠ s.payloadCount := by bv_omega
      exact absurd hcounters (not_or.mpr ⟨hcounted, not_not_intro rfl⟩)

/-- Settles O15. -/
theorem timeIsReadOnlyByAValidPayload : Obligations.TimeIsReadOnlyByAValidPayload := by
  unfold Obligations.TimeIsReadOnlyByAValidPayload
  intro s t m now now' nowValid nowValid' h hcounters
  cases hrun : s.halted with
  | true =>
    rw [exec_halted (by simp) hrun] at h ⊢
    exact h
  | false =>
    rw [exec_sample_running hrun] at h ⊢
    obtain rfl := Host.Outcome.next.inj h
    rw [(takeSample_chainForm hardware m s.startStep).clock_free hcounters ⟨now', nowValid'⟩]

/-- A notified update in the listed order: its own serial is not among the timeouts, as its bookkeeping is of this very
time (rules R175, R177, R193, R195). -/
theorem notifyDevice_output {serial : Serial} {e : DeviceState} {s : State} (hwf : s.registry.wf)
    (hpresent : memRead s.registry serial = some e) (status : Byte) (now : Time) :
    ∃ (timeouts : List Serial) (rows : List ListingRow),
      timeouts.Pairwise (· < ·) ∧ serial ∉ timeouts ∧
      (notifyDevice hardware serial status now e s).output =
        s.output ++ ([.publish .alarm serial (alarmPayload e.alarm),
            .publish .status serial (statusPayload e.tamper e.batteryLow)] ++
          timeouts.map (fun x => .publish .status x .timeout) ++ [.deviceList serial rows]) := by
  let kept : DeviceState := { e with lastUpdateTime := now, lastRawState := status }
  let refreshed : Memory := memWrite s.registry serial kept
  have hrefreshed : refreshed.wf := memWrite_wf hwf serial kept
  let start : State := { s with registry := refreshed, output := [] }
  have hsweep : (sweepAll hardware now start).output =
      (presentSerials (refreshed.filter fun entry => timesOut hardware now entry.2)).map
        fun x => .publish .status x .timeout := by
    rw [sweepAll_of_ascending (fun _ => rfl) now (s := start) hrefreshed, presentSerials, List.map_map]
    rfl
  refine ⟨presentSerials (refreshed.filter fun entry => timesOut hardware now entry.2),
    listing (sweepAll hardware now start).registry, presentSerials_pairwise (hrefreshed.filter _), fun hmem => ?_, ?_⟩
  · obtain ⟨entry, hentry, rfl⟩ := List.mem_map.mp hmem
    obtain ⟨hlisted, hsilent⟩ := List.mem_filter.mp hentry
    have hread := (memRead_of_mem hrefreshed hlisted).symm.trans (memRead_memWrite_same _ _ _)
    rw [Option.some.inj hread, timesOut_of_updated_now hardware now (e := kept) rfl] at hsilent
    cases hsilent
  · rw [notifyDevice_of_present hpresent, ← hsweep]

/-- What an update from a canonical registry hands out: nothing, or the events of a notified update. -/
theorem devUpdate_output (serial : Serial) (status : Byte) (now : Time) {s : State} (hwf : s.registry.wf) :
    (devUpdate hardware serial status now s).output = s.output ∨
      ∃ (alarmText statusText : PubPayload) (timeouts : List Serial) (rows : List ListingRow),
        timeouts.Pairwise (· < ·) ∧ serial ∉ timeouts ∧
        (devUpdate hardware serial status now s).output =
          s.output ++ ([.publish .alarm serial alarmText, .publish .status serial statusText] ++
            timeouts.map (fun x => .publish .status x .timeout) ++ [.deviceList serial rows]) := by
  rw [devUpdate_eq_gated_notify]
  split
  case isFalse => exact .inl rfl
  case isTrue =>
    obtain ⟨timeouts, rows, hascending, hnot, houtput⟩ :=
      notifyDevice_output (s := { s with registry := memWrite s.registry serial _ }) (memWrite_wf hwf serial _)
        (memRead_memWrite_same s.registry serial (storedDevice hardware s.registry serial status now)) status now
    exact .inr ⟨_, _, timeouts, rows, hascending, hnot, houtput⟩

/-- The mark of a valid payload hands out at most the one `RX_STATUS` (rule R201). -/
theorem rxhMark_output (now : Time) (s : State) :
    ∃ rx, (rx = [] ∨ rx = [Event.publish .rxStatus 0#20 .ok]) ∧ (rxhMark hardware true now s).output = s.output ++ rx := by
  rw [rxhMark_spec]
  refine ⟨_, ?_, rfl⟩
  split
  · exact .inr rfl
  · exact .inl rfl

/-- Settles O58: the three verdicts of the one payload a sample can complete. -/
theorem sampleEventsInOrder : Obligations.SampleEventsInOrder := by
  unfold Obligations.SampleEventsInOrder
  intro s t m now nowValid hwf h
  cases hrun : s.halted with
  | true =>
    rw [exec_halted (by simp) hrun] at h
    obtain rfl := Host.Outcome.next.inj h
    exact .inl rfl
  | false =>
    rw [exec_sample_running hrun] at h
    obtain rfl := Host.Outcome.next.inj h
    cases takeSample_chainForm hardware m s.startStep with
    | quiet t back window runs => exact .inl ((congrArg (·.state.output) (runs _)).trans back.output)
    | dispatch held finish back hphase complete sync finished cleared runs =>
      have late := keepsBackEnd_andThen (crcCheck hardware held.frame ⟨now, nowValid⟩ held) finished
      rw [runs ⟨now, nowValid⟩, late.output]
      have hempty : held.output = [] := back.output
      cases hvalid : crcValid hardware held.frame with
      | false =>
        rw [crcCheck_of_invalid hvalid, returned_state, hempty]
        exact .inr (.inl ⟨_, _, _, rfl⟩)
      | true =>
        cases nowValid with
        | false =>
          rw [crcCheck_of_no_clock hvalid rfl]
          exact .inl hempty
        | true =>
          obtain ⟨rx, hrx, hmarked⟩ := rxhMark_output now (checkedState hardware held.frame held)
          have hempty' : (checkedState hardware held.frame held).output = [] := hempty
          have hheld : (rxhMark hardware true now (checkedState hardware held.frame held)).registry.wf := by
            rw [rxhMark_spec]
            exact back.registry ▸ hwf
          rw [hempty', List.nil_append] at hmarked
          rw [crcCheck_of_clock hvalid rfl, returned_state]
          refine .inr (.inr ⟨rx, hrx, ?_⟩)
          rcases devUpdate_output (serialOf held.frame) (statusOf held.frame) now hheld with
            hnone | ⟨alarmText, statusText, timeouts, rows, hascending, hnot, houtput⟩
          · exact .inl (hnone.trans hmarked)
          · obtain ⟨d, hd, hframe⟩ := complete
            refine .inr ⟨d, _, alarmText, statusText, timeouts, rows, hd, congrArg serialOf hframe, hascending, hnot, ?_⟩
            rw [houtput, hmarked]
            simp only [List.append_assoc]

end Sys2Proof.Proofs
end

section
/-! SUPPORT. A payload sent as chips from reset (rule R63): a cell is one mid-bit sample, a bit is two cells, and the
64th bit is inserted by the sample that follows it. -/

namespace Sys2Proof.Proofs

open Sys2Proof Sys2Proof.Machine

theorem checkedState_congr (cfg : Config) (p : Payload) {s t : State} (h : KeepsBackEnd s t) :
    KeepsBackEnd (checkedState cfg p s) (checkedState cfg p t) :=
  ⟨congrArg (countUp cfg) h.payloadCount, h.errorCount, h.registry, h.rxGood, h.rxLastPublishTime, h.halted,
    h.faultCause, h.output⟩

theorem rxhMark_congr (cfg : Config) (g : Bool) (now : Time) {s t : State} (h : KeepsBackEnd s t) :
    KeepsBackEnd (rxhMark cfg g now s) (rxhMark cfg g now t) := by
  have hgate : rxGate cfg g now t = rxGate cfg g now s := by rw [rxGate, rxGate, h.rxGood, h.rxLastPublishTime]
  rw [rxhMark_spec, rxhMark_spec, hgate, h.rxLastPublishTime, h.output]
  exact ⟨h.payloadCount, h.errorCount, h.registry, rfl, rfl, h.halted, h.faultCause, rfl⟩

theorem devUpdate_congr (cfg : Config) (serial : Serial) (status : Byte) (now : Time) {s t : State}
    (h : KeepsBackEnd s t) :
    KeepsBackEnd (devUpdate cfg serial status now s) (devUpdate cfg serial status now t) := by
  obtain ⟨after, events, hacts⟩ := actsOnRegistry_devUpdate cfg serial status now s.registry
  rw [hacts s rfl, hacts t h.registry]
  exact ⟨h.payloadCount, h.errorCount, rfl, h.rxGood, h.rxLastPublishTime, h.halted, h.faultCause,
    congrArg (· ++ events) h.output⟩

/-- What `CRC.CHECK` leaves behind the validator is fixed by what it finds there. -/
theorem crcCheck_congr (cfg : Config) (p : Payload) (clock : Clock) {s t : State} (h : KeepsBackEnd s t) :
    KeepsBackEnd (crcCheck cfg p clock s).state (crcCheck cfg p clock t).state := by
  have hchecked := checkedState_congr cfg p h
  cases hvalid : crcValid cfg p with
  | false =>
    rw [crcCheck_of_invalid hvalid, crcCheck_of_invalid hvalid, h.payloadCount, h.errorCount, h.output]
    exact ⟨hchecked.payloadCount, rfl, h.registry, h.rxGood, h.rxLastPublishTime, h.halted, h.faultCause, rfl⟩
  | true =>
    cases hclock : clock.valid with
    | false =>
      rw [crcCheck_of_no_clock hvalid hclock, crcCheck_of_no_clock hvalid hclock]
      exact ⟨hchecked.payloadCount, h.errorCount, h.registry, h.rxGood, h.rxLastPublishTime, rfl, rfl, h.output⟩
    | true =>
      rw [crcCheck_of_clock hvalid hclock, crcCheck_of_clock hvalid hclock]
      exact devUpdate_congr cfg _ _ _ (rxhMark_congr cfg true clock.now hchecked)

theorem crcCheck_payloadCount (cfg : Config) (p : Payload) (clock : Clock) (s : State) :
    (crcCheck cfg p clock s).state.payloadCount = countUp cfg s.payloadCount := by
  cases hvalid : crcValid cfg p with
  | false => rw [crcCheck_of_invalid hvalid]; rfl
  | true => exact (counters_of_crcValid hvalid clock s).1

theorem crcCheck_frameRegister (cfg : Config) (p : Payload) (clock : Clock) (s : State) :
    (crcCheck cfg p clock s).state.frame = s.frame := by
  obtain ⟨_, _, _, _, _, _, _, _, _, hstate, -⟩ := crcCheck_frame cfg p clock s
  rw [hstate]

/-- A state with the synchronizer, the machine and the frame register set: what chips change while they complete no
payload. -/
def chipState (s : State) (chip : Bool) (count : Nat) (phase : Phase) (frame : BitVec 64) : State :=
  { s with lastChip := (chipLevel chip).setWidth 1, sinceEdge := count, phase := phase, frame := frame }

theorem chipState_self {s : State} {chip : Bool} (h : s.lastChip = (chipLevel chip).setWidth 1) :
    s = chipState s chip s.sinceEdge s.phase s.frame := by
  rw [chipState, ← h]

theorem chipState_startStep (s : State) (chip : Bool) (count : Nat) (phase : Phase) (frame : BitVec 64) :
    (chipState s chip count phase frame).startStep = chipState s.startStep chip count phase frame := rfl

theorem chipState_setPhase (s : State) (chip : Bool) (count : Nat) (phase phase' : Phase) (frame : BitVec 64) :
    { chipState s chip count phase frame with phase := phase' } = chipState s chip count phase' frame := rfl

theorem keepsBackEnd_chipState (s : State) (chip : Bool) (count count' : Nat) (phase : Phase) (frame : BitVec 64) :
    KeepsBackEnd (chipState s chip count phase frame).startStep (chipState s chip count' phase frame).startStep :=
  ⟨rfl, rfl, rfl, rfl, rfl, rfl, rfl, rfl⟩

theorem malformed_chipLevel (b : Bool) : malformed (chipLevel b) = false := by cases b <;> rfl

/-- One chip of the level `b` at the clock. -/
def chipOp (b : Bool) (clock : Clock) : Instr := .syncChip (chipLevel b) clock.now clock.valid

/-- The count after a chip of the level `b` behind one of the level `chip` (rule R111). -/
def chipCount (b chip : Bool) (count : Nat) : Nat := if b = chip then count + 1 else 1

theorem chipCount_self (b : Bool) (count : Nat) : chipCount b b count = count + 1 := if_pos rfl

/-- Behind whole cells the first chip of the next one is counted as the first, with an edge or without. -/
theorem chipCount_mod (b chip : Bool) {count : Nat} (h : count % 8 = 0) : chipCount b chip count % 8 = 1 := by
  rw [chipCount]
  split
  · omega
  · rfl

theorem countedState_chipState (s : State) (b chip : Bool) (count : Nat) (phase : Phase) (frame : BitVec 64) :
    countedState (chipLevel b) (chipState s chip count phase frame) =
      chipState s b (chipCount b chip count) phase frame := by
  have hcount : countChip ((chipLevel b).setWidth 1) ((chipLevel chip).setWidth 1) count = chipCount b chip count := by
    cases b <;> cases chip <;> rfl
  simp only [countedState, chipState, hcount]

/-- The frame register with the pending bit of the machine, if it has one, shifted in. -/
def insertPending (phase : Phase) (frame : BitVec 64) : BitVec 64 :=
  match pendingBit phase with
  | none => frame
  | some d => shiftIn frame d

theorem insertPending_of_none {phase : Phase} (h : pendingBit phase = none) (frame : BitVec 64) :
    insertPending phase frame = frame := by
  rw [insertPending, h]

theorem insertPending_of_pending {phase : Phase} {d : Byte} (h : pendingBit phase = some d) (frame : BitVec 64) :
    insertPending phase frame = shiftIn frame d := by
  rw [insertPending, h]

theorem malformed_of_pendingBit {phase : Phase} {d : Byte} (h : pendingBit phase = some d) : malformed d = false := by
  cases phase with
  | lowA | highA => cases h
  | lowB | highB => cases h; rfl

theorem runTrace_cons {i : Instr} {s t : State} (h : exec i s = .next t) (rest : List Instr) :
    runTrace (i :: rest) s = runTrace rest t := by
  rw [runTrace, h]

theorem runTrace_append (first second : List Instr) (s : State) :
    runTrace (first ++ second) s = runTrace second (runTrace first s) := by
  induction first generalizing s with
  | nil => rfl
  | cons i rest ih =>
    obtain ⟨t, ht⟩ := exec_next i s
    rw [List.cons_append, runTrace_cons ht, runTrace_cons ht, ih]

section Run

/-! Runs of chips from a running state whose outputs are empty. -/

variable {s : State} (hrun : s.halted = false) (hquiet : s.startStep = s)

include hrun hquiet

theorem exec_chipOp_between {b chip : Bool} {count : Nat} (h : chipCount b chip count % 8 ≠ 4) (phase : Phase)
    (frame : BitVec 64) (clock : Clock) :
    exec (chipOp b clock) (chipState s chip count phase frame) =
      .next (chipState s b (chipCount b chip count) phase frame) := by
  have hcounted := countedState_chipState s b chip count phase frame
  rw [chipOp, exec_syncChip_of_not_midBit (s := chipState s chip count phase frame) hrun (malformed_chipLevel b)
    (by rw [hcounted]; exact h), hcounted, chipState_startStep, hquiet]

/-- A mid-bit sample that completes no payload. -/
theorem exec_manStep_chipState (b chip : Bool) (count : Nat) (phase : Phase) {frame : BitVec 64}
    (hclean : syncOf (insertPending phase frame) ≠ 0xFFFE#16) (clock : Clock) :
    exec (.manStep (chipLevel b) clock.now clock.valid) (chipState s chip count phase frame) =
      .next (chipState s chip count (nextPhase phase b) (insertPending phase frame)) := by
  cases hpending : pendingBit phase with
  | none =>
    have hlevel : (chipLevel b == 1#8) = b := by cases b <;> rfl
    rw [exec_manStep_running (s := chipState s chip count phase frame) hrun, chipState_startStep, hquiet,
      manStep_of_accepted (malformed_chipLevel b), hlevel,
      manDecide_of_no_pending (s := chipState s chip count phase frame) hpending, returned_state,
      insertPending_of_none hpending]
    exact congrArg _ (chipState_setPhase s chip count phase _ frame)
  | some d =>
    rw [insertPending_of_pending hpending] at hclean ⊢
    have hinserted : exec (.frmShift d clock.now clock.valid) (chipState s chip count phase frame) =
        .next (chipState s chip count phase (shiftIn frame d)) := by
      rw [exec_frmShift_of_accepted (s := chipState s chip count phase frame) hrun (malformed_of_pendingBit hpending)]
      exact (exec_frmDetect_of_no_match (s := chipState s chip count phase (shiftIn frame d)) hrun hclean _ _).trans
        (by rw [chipState_startStep, hquiet])
    obtain ⟨t, hshift, hman⟩ := exec_manStep_of_pending (s := chipState s chip count phase frame) hrun hpending
      (malformed_chipLevel b) clock.now clock.valid
    obtain rfl := Host.Outcome.next.inj (hshift.symm.trans hinserted)
    have hrunning : (chipState s chip count phase (shiftIn frame d)).halted = false := hrun
    have hphase : (if chipLevel b = 1#8 then .highA else .lowA) = nextPhase phase b := by
      rw [nextPhase_of_pending hpending]
      cases b <;> rfl
    rw [hman, if_neg (by rw [hrunning]; exact Bool.false_ne_true), hphase]
    rfl

/-- Chips without an edge between two mid-bit counts are only counted. -/
theorem runTrace_between (b : Bool) (n : Nat) {count : Nat} (h : ∀ k < n, (count + 1 + k) % 8 ≠ 4) (phase : Phase)
    (frame : BitVec 64) (clock : Clock) :
    runTrace (traceChips (chipLevel b) n clock) (chipState s b count phase frame) =
      chipState s b (count + n) phase frame := by
  induction n generalizing count with
  | zero => rfl
  | succ n ih =>
    have hfirst := h 0 (by omega)
    have hexec := exec_chipOp_between hrun hquiet (b := b) (chip := b) (count := count)
      (by rw [chipCount_self]; exact hfirst) phase frame clock
    calc runTrace (traceChips (chipLevel b) (n + 1) clock) (chipState s b count phase frame)
        = runTrace (traceChips (chipLevel b) n clock) (chipState s b (chipCount b b count) phase frame) :=
          runTrace_cons hexec _
      _ = chipState s b (count + 1 + n) phase frame := by
          rw [chipCount_self]
          exact ih fun k hk => by have := h (k + 1) (by omega); omega
      _ = chipState s b (count + (n + 1)) phase frame := by rw [Nat.add_assoc, Nat.add_comm 1 n]

/-- Behind whole cells, three chips of one level stop in front of the mid-bit count. -/
theorem runTrace_threeChips (b chip : Bool) {count : Nat} (hcount : count % 8 = 0) (phase : Phase)
    (frame : BitVec 64) (clock : Clock) :
    ∃ count', count' % 8 = 3 ∧ runTrace (traceChips (chipLevel b) 3 clock) (chipState s chip count phase frame) =
      chipState s b count' phase frame := by
  have hfirst := chipCount_mod b chip hcount
  refine ⟨chipCount b chip count + 2, by omega, ?_⟩
  have hexec := exec_chipOp_between hrun hquiet (b := b) (chip := chip) (count := count) (by omega) phase frame clock
  exact (runTrace_cons hexec _).trans (runTrace_between hrun hquiet b 2 (fun k hk => by omega) phase frame clock)

omit hquiet in
/-- The fourth chip of a cell is the mid-bit sample. -/
theorem exec_chipOp_midBit (b : Bool) {count : Nat} (h : count % 8 = 3) (phase : Phase) (frame : BitVec 64)
    (clock : Clock) :
    exec (chipOp b clock) (chipState s b count phase frame) =
      exec (.manStep (chipLevel b) clock.now clock.valid) (chipState s b (count + 1) phase frame) := by
  have hcounted := countedState_chipState s b b count phase frame
  rw [chipCount_self] at hcounted
  rw [chipOp, exec_syncChip_of_midBit (s := chipState s b count phase frame) hrun (malformed_chipLevel b)
    (by rw [hcounted]; change (count + 1) % 8 = 4; omega), hcounted]

/-- A half-bit cell is one mid-bit sample of its level. -/
theorem runTrace_traceCell (b chip : Bool) {count : Nat} (hcount : count % 8 = 0) (phase : Phase) {frame : BitVec 64}
    (hclean : syncOf (insertPending phase frame) ≠ 0xFFFE#16) (clock : Clock) :
    ∃ count', count' % 8 = 0 ∧ runTrace (traceCell (chipLevel b) clock) (chipState s chip count phase frame) =
      chipState s b count' (nextPhase phase b) (insertPending phase frame) := by
  obtain ⟨n, hn, hthree⟩ := runTrace_threeChips hrun hquiet b chip hcount phase frame clock
  have hcell : traceCell (chipLevel b) clock =
      traceChips (chipLevel b) 3 clock ++ chipOp b clock :: traceChips (chipLevel b) 4 clock := rfl
  have hmid := (exec_chipOp_midBit hrun b hn phase frame clock).trans
    (exec_manStep_chipState hrun hquiet b b (n + 1) phase hclean clock)
  refine ⟨n + 1 + 4, by omega, ?_⟩
  rw [hcell, runTrace_append, hthree, runTrace_cons hmid]
  exact runTrace_between hrun hquiet b 4 (fun k hk => by omega) _ _ clock

/-- The two cells of a bit insert the bit that was pending and leave the new one pending. -/
theorem runTrace_traceBit (b d chip : Bool) {count : Nat} (hcount : count % 8 = 0) {frame : BitVec 64}
    (hclean : syncOf (shiftIn frame (bitByte b)) ≠ 0xFFFE#16) (clock : Clock) :
    ∃ count', count' % 8 = 0 ∧
      runTrace (traceBit d clock) (chipState s chip count (pendingPhase b) frame) =
        chipState s d count' (pendingPhase d) (shiftIn frame (bitByte b)) := by
  obtain ⟨hnone, hphase⟩ := nextPhase_halfCells b d
  have hfirst := insertPending_of_pending (pendingBit_pendingPhase b) frame
  have hsecond := insertPending_of_none hnone (shiftIn frame (bitByte b))
  obtain ⟨n, hn, hcell⟩ :=
    runTrace_traceCell hrun hquiet (!d) chip hcount (pendingPhase b) (by rw [hfirst]; exact hclean) clock
  rw [hfirst] at hcell
  obtain ⟨n', hn', hcell'⟩ := runTrace_traceCell hrun hquiet d (!d) hn (nextPhase (pendingPhase b) (!d))
    (by rw [hsecond]; exact hclean) clock
  rw [hsecond, hphase] at hcell'
  exact ⟨n', hn', by rw [traceBit, runTrace_append, hcell, hcell']⟩

end Run

/-- The frame register after bits inserted since reset. -/
def window (bits : List Bool) : BitVec 64 := bits.foldl (fun f b => shiftIn f (bitByte b)) 0#64

theorem window_append (bits : List Bool) (b : Bool) : window (bits ++ [b]) = shiftIn (window bits) (bitByte b) := by
  rw [window, List.foldl_append]
  rfl

/-- Fewer than 64 bits leave the top bit of the register clear, and so no sync match in it (rule R63). -/
theorem syncOf_window_ne {bits : List Bool} (h : bits.length < 64) : syncOf (window bits) ≠ 0xFFFE#16 := by
  have htop : (window bits).getLsbD 63 = false := by
    rw [window, getLsbD_foldl_shiftIn _ _ (by decide), if_neg (by omega), BitVec.getLsbD_zero]
  intro hsync
  have hbit := congrArg (·.getLsbD 15) hsync
  simp [syncOf, -BitVec.getLsbD_eq_getElem, htop] at hbit

/-- The bits of a payload, first to last, fill the register with it. -/
theorem window_sentBits (p : Payload) : window (sentBits p) = p := by
  refine BitVec.eq_of_getLsbD_eq fun k hk => ?_
  rw [window, getLsbD_foldl_shiftIn _ _ hk, if_pos (by simpa [sentBits] using hk)]
  have hreverse : (sentBits p).reverse = (List.range 64).map p.getLsbD := rfl
  simp [hreverse, hk]

/-- Bits sent from a machine that has one pending come to stand in the register, all but the last, which is pending. -/
theorem runTrace_bits {s : State} (hrun : s.halted = false) (hquiet : s.startStep = s) (clock : Clock)
    (bits : List Bool) (inserted : List Bool) (b chip : Bool) {count : Nat} (hcount : count % 8 = 0)
    (hlength : inserted.length + bits.length < 64) :
    ∃ inserted' last chip' count', count' % 8 = 0 ∧ inserted' ++ [last] = inserted ++ b :: bits ∧
      runTrace (bits.flatMap (traceBit · clock)) (chipState s chip count (pendingPhase b) (window inserted)) =
        chipState s chip' count' (pendingPhase last) (window inserted') := by
  induction bits generalizing inserted b chip count with
  | nil => exact ⟨inserted, b, chip, count, hcount, rfl, rfl⟩
  | cons d bits ih =>
    rw [List.length_cons] at hlength
    have hclean : syncOf (window (inserted ++ [b])) ≠ 0xFFFE#16 :=
      syncOf_window_ne (by rw [List.length_append, List.length_singleton]; omega)
    rw [window_append] at hclean
    obtain ⟨n, hn, hbit⟩ := runTrace_traceBit hrun hquiet b d chip hcount hclean clock
    obtain ⟨inserted', last, chip', count', hcount', hlist, hrest⟩ := ih (inserted ++ [b]) d d hn
      (by rw [List.length_append, List.length_singleton]; omega)
    rw [window_append] at hrest
    refine ⟨inserted', last, chip', count', hcount', by rw [hlist, List.append_assoc, List.singleton_append], ?_⟩
    rw [List.flatMap_cons, runTrace_append, hbit, hrest]

/-- A block that still runs behind the detector was running behind the check too, so the clearing and the transition
are made together or not at all. -/
theorem clear_then_leave {u w : State} (hw : w = if u.halted then u else { u with frame := 0#64 }) (next : Phase) :
    (if w.halted then w else { w with phase := next }) =
      if u.halted then u else { u with frame := 0#64, phase := next } := by
  subst hw
  by_cases h : u.halted = true
  · rw [if_pos h, if_pos h, if_pos h]
  · rw [if_neg h, if_neg h, if_neg h]

/-- The last bit of a payload makes `FRM.SHIFT` hand the payload over and clear the register. -/
theorem frmShift_state_of_match {s : State} (hrun : s.halted = false) {d : Byte} (hd : malformed d = false)
    (hsync : syncOf (shiftIn s.frame d) = 0xFFFE#16) (clock : Clock) :
    ∃ u, KeepsBackEnd (crcCheck hardware (shiftIn s.frame d) clock s).state u ∧ u.frame = shiftIn s.frame d ∧
      (frmShift hardware d clock s).state = if u.halted then u else { u with frame := 0#64 } := by
  obtain ⟨inserted, hinserted⟩ : ∃ t : State, t = { s with frame := shiftIn s.frame d } := ⟨_, rfl⟩
  have hback : KeepsBackEnd s inserted := hinserted ▸ keepsBackEnd_setFrontEnd s
  have hframe : inserted.frame = shiftIn s.frame d := by rw [hinserted]
  rw [frmShift_of_accepted hd, ← hinserted,
    frmDetect_state_of_match (hback.halted.trans hrun) (by rw [hframe]; exact hsync), hframe]
  exact ⟨_, crcCheck_congr hardware _ clock hback, (crcCheck_frameRegister hardware _ clock _).trans hframe, rfl⟩

/-- A mid-bit sample that brings out the last bit of a payload hands the payload over, and then clears the register
and makes the transition unless the check halted the block. -/
theorem exec_manStep_of_match {s : State} (hrun : s.halted = false) {d : Byte} (hd : pendingBit s.phase = some d)
    (hsync : syncOf (shiftIn s.frame d) = 0xFFFE#16) {b : Byte} (hb : malformed b = false) (clock : Clock) :
    ∃ u next, KeepsBackEnd (crcCheck hardware (shiftIn s.frame d) clock s.startStep).state u ∧
      u.frame = shiftIn s.frame d ∧
      exec (.manStep b clock.now clock.valid) s =
        .next (if u.halted then u else { u with frame := 0#64, phase := next }) := by
  obtain ⟨w, hshift, hman⟩ := exec_manStep_of_pending hrun hd hb clock.now clock.valid
  rw [exec_frmShift_running hrun] at hshift
  obtain rfl := Host.Outcome.next.inj hshift
  obtain ⟨u, hcheck, hheld, hstate⟩ :=
    frmShift_state_of_match (s := s.startStep) hrun (malformed_of_pendingBit hd) hsync clock
  exact ⟨u, _, hcheck, hheld, hman.trans (congrArg _ (clear_then_leave hstate _))⟩

/-- The mid-bit chip behind the last bit of a payload does behind the validator what `CRC.CHECK` of that payload
does. -/
theorem exec_chipOp_of_match {s : State} (hrun : s.halted = false) (level b : Bool) {count : Nat}
    (hcount : count % 8 = 3) {frame : BitVec 64} (hsync : syncOf (shiftIn frame (bitByte b)) = 0xFFFE#16)
    (clock : Clock) :
    ∃ t after,
      exec (.crcCheck (shiftIn frame (bitByte b)) clock.now clock.valid)
        (chipState s level count (pendingPhase b) frame) = .next t ∧
      exec (chipOp level clock) (chipState s level count (pendingPhase b) frame) = .next after ∧
      KeepsBackEnd t after ∧ after.frame = (if t.halted then shiftIn frame (bitByte b) else 0#64) ∧
      t.payloadCount = countUp hardware s.payloadCount := by
  obtain ⟨u, next, hcheck, hheld, hman⟩ := exec_manStep_of_match
    (s := chipState s level (count + 1) (pendingPhase b) frame) hrun (pendingBit_pendingPhase b) hsync
    (malformed_chipLevel level) clock
  refine ⟨_, _, exec_crcCheck_running (s := chipState s level count (pendingPhase b) frame) hrun _ _ _,
    (exec_chipOp_midBit hrun level hcount _ frame clock).trans hman, ?_⟩
  generalize ht : (crcCheck hardware (shiftIn frame (bitByte b)) clock
    (chipState s level count (pendingPhase b) frame).startStep).state = t
  have hback : KeepsBackEnd t u :=
    ht ▸ (crcCheck_congr hardware _ clock (keepsBackEnd_chipState s level _ _ _ frame)).trans hcheck
  have hcounted : t.payloadCount = countUp hardware s.payloadCount := ht ▸ crcCheck_payloadCount hardware _ clock _
  rw [← hback.halted]
  by_cases h : u.halted = true
  · rw [if_pos h, if_pos h]
    exact ⟨hback, hheld, hcounted⟩
  · rw [if_neg h, if_neg h]
    exact ⟨hback.trans (keepsBackEnd_setFrontEnd u), rfl, hcounted⟩

/-- Sent from reset, the chips of a payload and three more leave its last bit pending and the others in the register. -/
theorem runTrace_frame (p : Payload) (hsync : syncOf p = 0xFFFE#16) (level : Bool) (clock : Clock) :
    ∃ inserted last count, count % 8 = 3 ∧ inserted ++ [last] = sentBits p ∧
      runTrace (traceFrame p clock ++ traceChips (chipLevel level) 3 clock) State.reset =
        chipState State.reset level count (pendingPhase last) (window inserted) := by
  have hrun : State.reset.halted = false := rfl
  have hquiet : State.reset.startStep = State.reset := by rw [State.reset, State.startStep]
  have hfirst : p.getLsbD 63 = true := by
    have hbit : (syncOf p).getLsbD 15 = true := by rw [hsync]; rfl
    simpa [syncOf, ← BitVec.getLsbD_eq_getElem] using hbit
  have hsent : sentBits p = true :: (sentBits p).tail := hfirst ▸ rfl
  have hlength : ([] : List Bool).length + (sentBits p).tail.length < 64 := by simp [sentBits]
  obtain ⟨n, hn, hlow⟩ := runTrace_traceCell hrun hquiet false false (count := 0) rfl .lowA (frame := 0#64)
    (by decide) clock
  obtain ⟨n', hn', hhigh⟩ := runTrace_traceCell hrun hquiet true false hn .lowA (frame := 0#64) (by decide) clock
  obtain ⟨inserted, last, chip, n'', hn'', hlist, hbits⟩ := runTrace_bits hrun hquiet clock (sentBits p).tail [] true
    true hn' hlength
  obtain ⟨count, hcount, hthree⟩ := runTrace_threeChips hrun hquiet level chip hn'' (pendingPhase last)
    (window inserted) clock
  refine ⟨inserted, last, count, hcount, hlist.trans hsent.symm, ?_⟩
  have hreset : State.reset = chipState State.reset false 0 .lowA 0#64 := chipState_self rfl
  have hframe : traceFrame p clock = traceBit true clock ++ (sentBits p).tail.flatMap (traceBit · clock) := by
    rw [traceFrame, hsent, List.flatMap_cons, List.tail_cons]
  have hbit : traceBit true clock = traceCell (chipLevel false) clock ++ traceCell (chipLevel true) clock := rfl
  rw [hframe, hbit, runTrace_append, runTrace_append, runTrace_append]
  nth_rw 1 [hreset]
  rw [hlow]
  exact (congrArg _ ((congrArg _ hhigh).trans hbits)).trans hthree

/-- Settles O33: three chips behind the payload its last bit is still pending and the register holds the other 63; the
fourth is the mid-bit sample that completes it. -/
theorem chipsOfAPayloadReachTheValidator : Obligations.ChipsOfAPayloadReachTheValidator := by
  unfold Obligations.ChipsOfAPayloadReachTheValidator
  intro p clock level hsync
  obtain ⟨inserted, last, count, hcount, hlist, hbefore⟩ := runTrace_frame p hsync level clock
  have hpayload : shiftIn (window inserted) (bitByte last) = p := by
    rw [← window_append, hlist, window_sentBits]
  obtain ⟨t, after, hcheck, hchip, hback, hframe, hcounted⟩ := exec_chipOp_of_match (s := State.reset) rfl level last
    hcount (hpayload.symm ▸ hsync) clock
  rw [hpayload] at hcheck hframe
  rw [hbefore]
  exact ⟨rfl, t, after, hcheck, hchip, hback.payloadCount.trans (hcounted.trans (countUp_hardware _)),
    hback.errorCount, hback.registry, hback.rxGood, hback.rxLastPublishTime, hback.output, hframe, hback.halted,
    hback.faultCause⟩

end Sys2Proof.Proofs
end
